-- ==== Sys2Proof/Word.lean ====
section
/-! DEFINITION. The word types of the LT4 and the numbers that name its ports, tags, slots and blocks (00 section 4). -/

namespace Sys2Proof

/-- One byte of a packet, a block or a frame. -/
abbrev Byte := BitVec 8

/-- A timebase value: the timebase is a 32-bit count of ticks (R97). -/
abbrev Tick := BitVec 32

/-- One 32-bit word of the register window (R179). -/
abbrev Word := BitVec 32

/-- A host port, 0 to 3. -/
abbrev Port := Fin 4

/-- A fabric tag, 0 to 127. -/
abbrev Tag := Fin 128

/-- A request slot of a port, 0 to 15. -/
abbrev Slot := Fin 16

/-- A block of the Response Buffer, 0 to 255 (R54). -/
abbrev Block := Fin 256

/-- A write staging block of a port, 0 to 15 (R28). -/
abbrev StageBlock := Fin 16

/-- A host ID, 0 to 63 (section 2.2). -/
abbrev HostId := BitVec 6

/-- A set of notice bits in notice-bit order (11.2). -/
abbrev NoticeBits := BitVec 6

end Sys2Proof
end

