-- ==== Sys2Proof/Syntax.lean ====
section
/-! DEFINITION. The commands of the block: one constructor for each row of spec/opcode_table.json, in the table's order. -/

namespace Sys2Proof

/-- Why the part is held in reset (R189): RESET_N went low while the part was powered and its reference clock was
running, or supply was applied, fell below its operating level, or the reference clock stopped. -/
inductive HoldCause where
  | power
  | pin
  deriving DecidableEq, Repr

/-- The part's steps (95). Where a row concerns one host port, its first operand is the port. -/
inductive Instr where
  /-- TICK_EVENT (R97). -/
  | tickEvent
  /-- DEADLINE_EXPIRY (R101): every deadline the present tick has reached, as one event (R99). -/
  | deadlineExpiry
  /-- BACKOFF_END (R15): every backoff the present tick has ended, as one event (R99). -/
  | backoffEnd
  /-- QUARANTINE_END (R16): every quarantine the present tick has ended, as one event (R99). -/
  | quarantineEnd
  /-- DRAIN_LIMIT_EXPIRY (R69). -/
  | drainLimitExpiry
  /-- DRAIN_COMPLETE (R68). -/
  | drainComplete
  /-- STALL_EXPIRY (R141). -/
  | stallExpiry (h : Port)
  /-- HOST_CARRIER_DETECT (R115). -/
  | hostCarrierDetect (h : Port)
  /-- HOST_CARRIER_LOSS (R117). -/
  | hostCarrierLoss (h : Port)
  /-- HOST_CHECK_FAILURE (R117). -/
  | hostCheckFailure (h : Port)
  /-- HOST_HOLDOFF_END (R118). -/
  | hostHoldoffEnd (h : Port)
  /-- ATTACH (R119), with its fields at their encoded widths (11.2). -/
  | attach (h : Port) (mask : NoticeBits) (hdrCap : BitVec 8) (dataCap : BitVec 16)
  /-- REQUEST (R30), with its fields at their encoded widths (11.2) and the data it carries. -/
  | request (h : Port) (kind : BitVec 8) (id : HostId) (cls : BitVec 2) (addr : BitVec 48) (len : BitVec 16)
      (data : List Byte)
  /-- CREDIT (R125). -/
  | credit (h : Port) (hdr : BitVec 8) (data : BitVec 16)
  /-- NOTICE_ACK (R130). -/
  | noticeAck (h : Port) (bits : NoticeBits)
  /-- HOST_UNUSABLE_PACKET (R192): the header and data bytes of the packet. -/
  | hostUnusablePacket (h : Port) (bytes : List Byte)
  /-- ATTACH_ANSWER_START (R120). -/
  | attachAnswerStart (h : Port)
  /-- GRANT_TRANSMISSION_START (R122). -/
  | grantTransmissionStart (h : Port)
  /-- NOTICE_TRANSMISSION_START (R129). -/
  | noticeTransmissionStart (h : Port)
  /-- RESPONSE_TRANSMISSION_START (R44). -/
  | responseTransmissionStart (h : Port)
  /-- RESPONSE_TRANSMISSION_END (R45). -/
  | responseTransmissionEnd (h : Port)
  /-- GRANT_TRANSMISSION_END (R122). -/
  | grantTransmissionEnd (h : Port)
  /-- HOST_TRANSMISSION_END (R126): a NOTICE or an attach answer has been sent. -/
  | hostTransmissionEnd (h : Port)
  /-- TARGET_CARRIER_DETECT (R148). -/
  | targetCarrierDetect
  /-- TARGET_CARRIER_LOSS (R148). -/
  | targetCarrierLoss
  /-- TARGET_CHECK_FAILURE (R149). -/
  | targetCheckFailure
  /-- TRAIN_ACK (R152). -/
  | trainAck (hdr : BitVec 8) (data : BitVec 16) (size : BitVec 16)
  /-- TRAIN_END_TICK_EXPIRY (R151). -/
  | trainEndTickExpiry
  /-- TARGET_HOLDOFF_END (R154). -/
  | targetHoldoffEnd
  /-- TCPL (R75), with its status code as received (R193). -/
  | tcpl (tag : Tag) (status : BitVec 8) (remaining : BitVec 16) (data : List Byte)
  /-- TCREDIT (R156). -/
  | tcredit (hdr : BitVec 8) (data : BitVec 16)
  /-- TARGET_UNUSABLE_PACKET (R193). -/
  | targetUnusablePacket (bytes : List Byte)
  /-- TREQ_TRANSMISSION_END (R157). -/
  | treqTransmissionEnd
  /-- ISSUE_GRANT (R60). -/
  | issueGrant
  /-- RETRY_GRANT (R62). -/
  | retryGrant
  /-- CLAIM_ENTRY (R57). -/
  | claimEntry
  /-- DATA_CREDIT_HOLD (R63). -/
  | dataCreditHold
  /-- READ_CEILING_RETIRE (R51). -/
  | readCeilingRetire
  /-- FENCE_READY (R41). -/
  | fenceReady (h : Port)
  /-- EVENT_PENDING_WRITE (R173). -/
  | eventPendingWrite (w : Word)
  /-- EVENT_ENABLE_WRITE (R173). -/
  | eventEnableWrite (w : Word)
  /-- REGISTER_WRITE (R179). -/
  | registerWrite (addr : BitVec 16) (w : Word)
  /-- WRITE_FRAME_DISCARD (R178). -/
  | writeFrameDiscard
  /-- INVALID_COMMAND (R180): the command word as written. -/
  | invalidCommand (w : Word)
  /-- PORT_RESET (R138): argument A. -/
  | portReset (a : BitVec 8)
  /-- TARGET_RESET (R162). -/
  | targetReset
  /-- SOFT_RESET (R190). -/
  | softReset
  /-- RESHAPE (R66): argument B. -/
  | reshape (b : BitVec 16)
  /-- LOG_POP (R168). -/
  | logPop
  /-- LOG_CLEAR (R169). -/
  | logClear
  /-- TABLE_FETCH (R182): arguments A and B. -/
  | tableFetch (a : BitVec 8) (b : BitVec 16)
  /-- TABLE_COMMIT (R188): arguments A and B. -/
  | tableCommit (a : BitVec 8) (b : BitVec 16)
  /-- POWER_ON_RESET (R189). -/
  | powerOnReset
  /-- PIN_RESET (R189). -/
  | pinReset
  /-- RESET_HOLD_BEGIN (R189). -/
  | resetHoldBegin (c : HoldCause)
  deriving DecidableEq, Repr

end Sys2Proof
end

