-- ==== Sys2Proof/Config.lean ====
section
/-! DEFINITION. The capacities and fixed times of the part (00 section 3). The manual leaves no value free to an
implementation, so there is no opaque constant here. -/

namespace Sys2Proof.Config

/-- A block is 64 bytes (00 section 4). -/
abbrev blockBytes : Nat := 64

/-- Request header credits of a session: one for each request slot (R29). -/
abbrev requestSlots : Nat := 16

/-- Request data credits of a session: one for each write staging block (R29). -/
abbrev stagingBlocks : Nat := 16

/-- The longest request, in bytes (R34). -/
abbrev maxRequest : Nat := 512

/-- The fault log holds up to 32 records (R164). -/
abbrev logCapacity : Nat := 32

/-- Lane holdoff of the host lanes and the target lane, in ticks (R118, R154). -/
abbrev holdoffTicks : Tick := 64

/-- Target TRAIN retry interval, in ticks (R151). -/
abbrev trainTicks : Tick := 64

/-- One unit of the stall window, in ticks (R141). -/
abbrev stallUnit : Nat := 16

/-- The stall count stays at this value (R141). -/
abbrev stallCountMax : Nat := 65535

end Sys2Proof.Config
end

