-- ==== Sys2Proof/Machine/Memory.lean ====
section
/-! DEFINITION. The bytes of the Response Buffer (R54) and of the write staging areas (R28): a list of (address, byte)
pairs in one canonical form, addresses strictly rising and no entry equal to what an unlisted address reads as. -/

namespace Sys2Proof.Machine

/-- The bytes of one buffer, by address: byte `p` of block `b` is at address `64 * b + p`. -/
abbrev Memory := List Host.Cell

/-- What a byte that nothing has written reads as. DESIGN CHOICE, unsafe, log 15: the spec gives the blocks no
contents at reset; every byte a RESPONSE or a TREQ carries has been written before it is read (R91, R28). -/
abbrev Memory.unlisted : Byte := 0

/-- Read one byte. -/
def Memory.read : Memory → Nat → Byte
  | [], _ => Memory.unlisted
  | (a', v) :: m, a => if a = a' then v else Memory.read m a

/-- Write one byte, keeping the canonical form. -/
def Memory.write : Memory → Nat → Byte → Memory
  | [], a, b => if b = Memory.unlisted then [] else [(a, b)]
  | (a', v) :: m, a, b =>
    if a < a' then (if b = Memory.unlisted then (a', v) :: m else (a, b) :: (a', v) :: m)
    else if a = a' then (if b = Memory.unlisted then m else (a, b) :: m)
    else (a', v) :: Memory.write m a b

/-- The canonical form: addresses strictly rising, no listed byte equal to what an unlisted address reads as. -/
abbrev Memory.wf (m : Memory) : Prop :=
  (m.map Prod.fst).Pairwise (· < ·) ∧ ∀ c ∈ m, c.2 ≠ Memory.unlisted

/-- The address of the byte at offset `o` of the request whose blocks are listed: entry `o / 64` of the list, position
`o mod 64` within that block (R55); none where the list has no such entry. -/
def byteAddr (blocks : List Nat) (o : Nat) : Option Nat :=
  (blocks[o / 64]?).map fun b => 64 * b + o % 64

/-- Store `data` from offset `o` on, through the block list (R28, R80). -/
def storeBytes (blocks : List Nat) : Nat → List Byte → Memory → Memory
  | _, [], m => m
  | o, b :: rest, m =>
    storeBytes blocks (o + 1) rest (match byteAddr blocks o with | some a => m.write a b | none => m)

/-- Read `n` bytes from offset `o` on, through the block list (R44, R60). -/
def loadBytes (blocks : List Nat) (m : Memory) : Nat → Nat → List Byte
  | _, 0 => []
  | o, n + 1 =>
    (match byteAddr blocks o with | some a => m.read a | none => Memory.unlisted) :: loadBytes blocks m (o + 1) n

end Sys2Proof.Machine
end

