-- ==== Sys2Proof/Machine/State.lean ====
section
/-! DEFINITION. The state of the LT4, block by block (00 section 2.1), the stops of the model, and the state after reset. -/

namespace Sys2Proof.Machine

/-- The four request kinds (11.2). -/
inductive ReqKind where
  | read | write | post | fence
  deriving DecidableEq, Repr

/-- The kinds that carry a tag (table of 1.1). -/
inductive TagKind where
  | read | write
  deriving DecidableEq, Repr

/-- A maximum request size: 64, 128, 256 or 512 bytes (3.9, R152). -/
inductive Mrs where
  | m64 | m128 | m256 | m512
  deriving DecidableEq, Repr

/-- The stages of an occupied slot; a VACANT slot holds no record (table of 2.1). -/
inductive Stage where
  | queued | issuing | awaiting | ready
  deriving DecidableEq, Repr

/-- The outcomes of a subrequest (R86). -/
inductive SubOutcome where
  | ok | poisoned | unsupported | aborted | timeout | linkDown | malformed | retryExhausted | cancelled
  deriving DecidableEq, Repr

/-- The host statuses (11.4). -/
inductive HostStatus where
  | ok | poisonedData | denied | idInUse | badRequest | targetError | dataError | timeout | unavailable | faultSeen
  deriving DecidableEq, Repr

/-- The session end causes (R133). -/
inductive EndCause where
  | none | partReset | retrain | linkLoss | linkError | mgmtReset | stallFence | stallReset | portDisabled
  deriving DecidableEq, Repr

/-- The lane down causes (R163). -/
inductive DownCause where
  | none | carrierLoss | protocol | targetReset
  deriving DecidableEq, Repr

/-- The stall actions (R184). -/
inductive StallAction where
  | note | fence | reset
  deriving DecidableEq, Repr

/-- The target-down behaviours (R184). -/
inductive DownBehaviour where
  | hold | fail
  deriving DecidableEq, Repr

/-- The modes of a stall timer (R140). -/
inductive StallMode where
  | stopped | running | paused
  deriving DecidableEq, Repr

/-- One entry of a subrequest list (table of 2.1), with the poisoned mark of R80. -/
structure Sub where
  offset   : Nat
  length   : Nat
  tag      : Option Tag
  outcome  : Option SubOutcome
  poisoned : Bool
  deriving DecidableEq, Repr

/-- What the arbiter writes into a record at first issue (R52): the MRS used, the subrequest list and the
next-to-issue index. -/
structure Cut where
  mrs  : Mrs
  subs : List Sub
  next : Nat
  deriving DecidableEq, Repr

/-- One request record (table of 2.1). `cut` is absent until first issue; `blocks` is empty until a READ's first
issue, and `staging` is empty where no staging block is held. -/
structure ReqRec where
  stage         : Stage
  kind          : ReqKind
  hostId        : Option HostId
  mapped        : Bool
  cls           : BitVec 2
  target        : Option (BitVec 40)
  length        : Nat
  seq           : BitVec 16
  cut           : Option Cut
  firstFailure  : Option (SubOutcome × Nat)
  firstPoisoned : Option Nat
  blocks        : List Block
  staging       : List StageBlock
  status        : Option HostStatus
  rejected      : Bool
  deriving DecidableEq, Repr

/-- The states of a tag that is not FREE, each with the timers it carries (1.1, R99). In BACKOFF the backoff end tick
is present until the backoff ends. -/
inductive TagPhase where
  | issued (deadline : Tick)
  | filling (deadline : Tick)
  | backoff (deadline : Tick) (backoffEnd : Option Tick)
  | lapsed (quarantineEnd : Tick)
  deriving DecidableEq, Repr

/-- One tag record that is not FREE (table of 1.1). `remaining` has a meaning only for a READ tag that is not LAPSED. -/
structure TagRec where
  port      : Port
  session   : Nat
  slot      : Slot
  sub       : Nat
  kind      : TagKind
  addr      : BitVec 40
  length    : Nat
  remaining : Nat
  retries   : Nat
  orphaned  : Bool
  phase     : TagPhase
  deriving DecidableEq, Repr

/-- The link states of a host lane (R115); HOLDOFF carries its end tick (R118). -/
inductive HostLink where
  | down | waiting | active | fenced
  | holdoff (endTick : Tick)
  deriving DecidableEq, Repr

/-- The causes of an ATTACH_NAK (R119). -/
inductive NakCause where
  | range | disabled
  deriving DecidableEq, Repr

/-- A pending attach answer (R120). -/
inductive AttachAnswer where
  | ack (session : Nat) (cause : EndCause)
  | nak (cause : NakCause)
  deriving DecidableEq, Repr

/-- A packet from the part to a host (11.2). A RESPONSE also names the slot it answers, which is not on the wire. -/
inductive HostPacket where
  | answer (a : AttachAnswer)
  | grant (hdr data : Nat)
  | notice (bits : NoticeBits)
  | response (slot : Slot) (status : HostStatus) (id : HostId) (offset : Option Nat) (data : Option (List Byte))
  deriving DecidableEq, Repr

/-- How a packet that is cut off ends: closed at once with a check sequence that cannot pass, or stopped partway
because the transmitter is off (R123). -/
inductive CutForm where
  | closed | stopped
  deriving DecidableEq, Repr

/-- One host port: its Host Lane Interface, Port Supervisor and Intake. -/
structure PortState where
  link          : HostLink
  carrier       : Bool
  capHdr        : Nat
  capData       : Nat
  respHdr       : Nat
  respData      : Nat
  reqHdr        : Nat
  reqData       : Nat
  retHdr        : Nat
  retData       : Nat
  noticeMask    : NoticeBits
  noticePending : NoticeBits
  snapshot      : Option NoticeBits
  answer        : Option AttachAnswer
  tx            : Option HostPacket
  lastCut       : Option (CutForm × HostPacket)
  session       : Nat
  endCause      : EndCause
  stallMode     : StallMode
  stallCount    : Nat
  stallDue      : Bool
  fenceFault    : Bool
  slots         : Vector (Option ReqRec) 16
  acceptSeq     : BitVec 16
  respQ         : List Slot
  staging       : Memory
  deriving DecidableEq, Repr

/-- The holder of a data-credit hold: a tag at the head of the retry queue, or a port (R63). -/
inductive Holder where
  | tag (t : Tag)
  | port (h : Port)
  deriving DecidableEq, Repr

/-- The reshape state (3.9). While DRAINING: the requested size, the start tick and the drain limit (R66). -/
inductive ReshapeState where
  | idle
  | draining (size : Mrs) (start : Tick) (limit : Nat)
  deriving DecidableEq, Repr

/-- How the last reshape ended (3.9). -/
inductive ReshapeOutcome where
  | none | done | aborted
  deriving DecidableEq, Repr

/-- The Issue Arbiter, with the claim queue it keeps for the Response Buffer (03). -/
structure Arbiter where
  pointer       : Port
  burst         : Nat
  retryQ        : List Tag
  dataHold      : Option Holder
  claims        : List (Port × Nat)
  reshape       : ReshapeState
  outcome       : ReshapeOutcome
  configuredMrs : Mrs
  deriving DecidableEq, Repr

/-- The link states of the target lane (R148), each with its end tick (R151, R154). -/
inductive TargetLink where
  | down
  | training (trainEnd : Tick)
  | up
  | holdoff (endTick : Tick)
  deriving DecidableEq, Repr

/-- A TREQ (R157). The tag is absent for a POST. -/
structure Treq where
  kind   : ReqKind
  tag    : Option Tag
  addr   : BitVec 40
  length : Nat
  data   : List Byte
  deriving DecidableEq, Repr

/-- What the target lane's transmitter is doing: idle, a TRAIN sent and not yet answered, or a TREQ being sent. -/
inductive TargetTx where
  | idle
  | train
  | treq (t : Treq)
  deriving DecidableEq, Repr

/-- The Target Lane Interface (08). -/
structure TargetLane where
  link      : TargetLink
  carrier   : Bool
  totalHdr  : Nat
  totalData : Nat
  heldHdr   : Nat
  heldData  : Nat
  maxReq    : Option Mrs
  effMrs    : Option Mrs
  lastDown  : DownCause
  tx        : TargetTx
  lastCut   : Option TargetTx
  deriving DecidableEq, Repr

/-- The kinds of log record (R165). -/
inductive LogKind where
  | timeoutLapse | lateCompletion | unmatchedCompletion | malformedCompletion | retryExhausted | creditViolation
  | malformedRequest | postedRejected | orphanLapse | stallAction | sessionEnd | targetLaneDown | reshapeAborted
  deriving DecidableEq, Repr

/-- The address field of a log record, with its mark (R165). -/
inductive LogAddr where
  | target (a : BitVec 40)
  | host (a : BitVec 48)
  deriving DecidableEq, Repr

/-- What the making block hands the Fault Log, less what the record's kind does not carry (R165). -/
structure LogEntry where
  kind    : LogKind
  port    : Option Port := none
  tag     : Option Tag := none
  hostId  : Option HostId := none
  session : Option Nat := none
  cls     : Option (BitVec 2) := none
  length  : Option Nat := none
  address : Option LogAddr := none
  detail  : Option Nat := none
  deriving DecidableEq, Repr

/-- One log record: an entry with the sequence number and the tick of its append (R164). -/
structure LogRec where
  seq   : BitVec 16
  tick  : Tick
  entry : LogEntry
  deriving DecidableEq, Repr

/-- The Fault Log and its log view (R164, R168). -/
structure FaultLog where
  records : List LogRec
  next    : BitVec 16
  view    : Option LogRec
  deriving DecidableEq, Repr

/-- The occurrence bits and the enable set, in the order of EVENT_PENDING (R173, 11.6). Bits 12 and 14 of `occ` are
conditions and are kept elsewhere (R172). -/
structure Events where
  occ    : BitVec 16
  enable : BitVec 16
  deriving DecidableEq, Repr

/-- An error map: the host status each failure outcome becomes (R89). -/
structure ErrorMap where
  unsupported    : HostStatus
  aborted        : HostStatus
  poisoned       : HostStatus
  timeout        : HostStatus
  linkDown       : HostStatus
  malformed      : HostStatus
  retryExhausted : HostStatus
  deriving DecidableEq, Repr

/-- A per-port policy record (R184). -/
structure PortPolicy where
  enabled      : Bool
  floor        : Nat
  ceiling      : Nat
  blockCeiling : Nat
  weight       : Nat
  timeouts     : Vector Nat 4
  stallWindow  : Nat
  stallAction  : StallAction
  behaviour    : DownBehaviour
  errorMap     : ErrorMap
  deriving DecidableEq, Repr

/-- A window record (R184), its fields at their encoded widths: a disabled window keeps what was staged (R186). -/
structure Window where
  enabled  : Bool
  base     : BitVec 48
  limit    : BitVec 49
  offset   : BitVec 40
  canRead  : Bool
  canWrite : Bool
  deriving DecidableEq, Repr

/-- The global record (R184). -/
structure GlobalPolicy where
  quarantine   : Nat
  backoff      : Nat
  retryLimit   : Nat
  reshapeLimit : Nat
  deriving DecidableEq, Repr

/-- The Policy Store (R184). Window `w` of port `h` is at index `4 * h + w` (R182). -/
structure Policy where
  ports   : Vector PortPolicy 4
  windows : Vector Window 16
  global  : GlobalPolicy
  deriving DecidableEq, Repr

/-- The result field of COMMAND_RESULT (R180). -/
inductive CmdResult where
  | none | done | invalid | busy
  deriving DecidableEq, Repr

/-- Which part reset was taken last (10.5). -/
inductive ResetCause where
  | powerOn | pin | soft
  deriving DecidableEq, Repr

/-- The SPI frame state (10 introduction): no frame, or a read or write frame in progress. -/
inductive FrameState where
  | idle | reading | writing
  deriving DecidableEq, Repr

/-- The Management Port, less its event sets (10). -/
structure Mgmt where
  staging     : Vector Word 16
  lastCommand : BitVec 8
  result      : CmdResult
  resetCause  : ResetCause
  frame       : FrameState
  deriving DecidableEq, Repr

/-- The whole part, with the queue of waiting commands. -/
structure State where
  pending  : List Instr
  hold     : Option HoldCause
  timebase : Tick
  ports    : Vector PortState 4
  tags     : Vector (Option TagRec) 128
  buffer   : Memory
  arb      : Arbiter
  target   : TargetLane
  log      : FaultLog
  events   : Events
  policy   : Policy
  mgmt     : Mgmt
  deriving DecidableEq, Repr

/-- The stops of the model, both in states the spec says cannot occur (log 20). -/
inductive Fault where
  /-- Raised by a REQUEST that passes the credit check while no slot is VACANT; R25 says a held header credit
  guarantees a VACANT slot. Safe: no claim can rest on what would follow. -/
  | noVacantSlot
  /-- Raised by a REQUEST that passes the credit check while too few staging blocks are free; R29 says held data
  credits are free staging blocks. Safe: no claim can rest on what would follow. -/
  | noStagingBlock
  deriving DecidableEq, Repr

/-- Commands to which the model gives no meaning. -/
inductive Refusal where
  /-- Raised by exec's arm of a command that has no meaning yet. Safe: nothing follows from a refusal. -/
  | notModelled (mnemonic : String)
  deriving DecidableEq, Repr

/-- The default error map (R89). -/
def ErrorMap.default : ErrorMap :=
  { unsupported := .targetError, aborted := .targetError, poisoned := .dataError, timeout := .timeout,
    linkDown := .unavailable, malformed := .dataError, retryExhausted := .unavailable }

/-- The default policy record of a port (R184). -/
def PortPolicy.default : PortPolicy :=
  { enabled := true, floor := 8, ceiling := 64, blockCeiling := 64, weight := 1,
    timeouts := #v[16, 64, 1024, 16384], stallWindow := 40, stallAction := .note, behaviour := .hold,
    errorMap := ErrorMap.default }

/-- The default window record (R184). -/
def Window.default : Window :=
  { enabled := false, base := 0, limit := 0, offset := 0, canRead := true, canWrite := true }

/-- The default global record (R184). -/
def GlobalPolicy.default : GlobalPolicy :=
  { quarantine := 1024, backoff := 4, retryLimit := 3, reshapeLimit := 4096 }

/-- A port right after a part reset, its host driving no carrier (R47, R132, R147). -/
def PortState.reset : PortState :=
  { link := .down, carrier := false, capHdr := 0, capData := 0, respHdr := 0, respData := 0, reqHdr := 0,
    reqData := 0, retHdr := 0, retData := 0, noticeMask := 0, noticePending := 0, snapshot := none, answer := none,
    tx := none, lastCut := none, session := 0, endCause := .partReset, stallMode := .stopped, stallCount := 0,
    stallDue := false, fenceFault := false, slots := Vector.replicate 16 none, acceptSeq := 0, respQ := [],
    staging := [] }

/-- The Issue Arbiter right after a part reset (R73). -/
def Arbiter.reset : Arbiter :=
  { pointer := 0, burst := 0, retryQ := [], dataHold := none, claims := [], reshape := .idle, outcome := .none,
    configuredMrs := .m128 }

/-- The Target Lane Interface right after a part reset, the fabric driving no carrier (R163). -/
def TargetLane.reset : TargetLane :=
  { link := .down, carrier := false, totalHdr := 0, totalData := 0, heldHdr := 0, heldData := 0, maxReq := none,
    effMrs := none, lastDown := .none, tx := .idle, lastCut := none }

/-- The part right after a power-on reset, with no carrier on any lane (R189, R184; log 16, log 28) and no command
waiting. -/
def State.reset : State :=
  { pending := [], hold := none, timebase := 0, ports := Vector.replicate 4 PortState.reset,
    tags := Vector.replicate 128 none, buffer := [], arb := Arbiter.reset, target := TargetLane.reset,
    log := { records := [], next := 0, view := none }, events := { occ := 0, enable := 0 },
    policy := { ports := Vector.replicate 4 PortPolicy.default, windows := Vector.replicate 16 Window.default,
                global := GlobalPolicy.default },
    mgmt := { staging := Vector.replicate 16 0, lastCommand := 0, result := .none, resetCause := .powerOn,
              frame := .idle } }

end Sys2Proof.Machine
end

