-- ==== Sys2Proof/Machine/Operands.lean ====
section
/-! DEFINITION. Operand forms: bit fields, byte order, sizes, codes and argument ranges (11, R180 to R182, R195). -/

namespace Sys2Proof.Machine

/-- Bits `lo + n - 1 .. lo` of a word, as a number. -/
def field (w : Word) (lo n : Nat) : Nat := (w.toNat / 2 ^ lo) % 2 ^ n

/-- Bit `i` of a word. -/
def bitAt (w : Word) (i : Nat) : Bool := field w i 1 == 1

/-- A number placed at bit `lo` of a word; `word` adds up such fields. -/
def place (lo v : Nat) : Nat := v * 2 ^ lo

/-- A Boolean as one bit. -/
def bit (b : Bool) : Nat := if b then 1 else 0

/-- The little-endian value of a run of bytes (00 section 4). -/
def leValue : List Byte → Nat
  | [] => 0
  | b :: bs => b.toNat + 256 * leValue bs

/-- The low `n` bytes of a value, least significant first (00 section 4). -/
def leBytes : Nat → Nat → List Byte
  | 0, _ => []
  | n + 1, v => BitVec.ofNat 8 v :: leBytes n (v / 256)

/-- `n` bytes of a packet from byte `i` on, as a little-endian value. -/
def fieldAt (bytes : List Byte) (i n : Nat) : Nat := leValue ((bytes.drop i).take n)

/-- The number of 64-byte blocks of a length: the length divided by 64, rounded up (00 section 4). -/
def ceilBlocks (n : Nat) : Nat := (n + 63) / 64

/-- An end tick is reached when the difference of the timebase minus it, modulo 2^32, is below 2^31 (R98). -/
def reached (now e : Tick) : Bool := decide ((now - e).toNat < 2 ^ 31)

/-- The end tick of a duration set now, modulo 2^32 (R98). -/
def after (now : Tick) (d : Nat) : Tick := now + BitVec.ofNat 32 d

/-- A maximum request size in bytes. -/
def Mrs.bytes : Mrs → Nat
  | .m64 => 64
  | .m128 => 128
  | .m256 => 256
  | .m512 => 512

/-- The maximum request size of a number of bytes; none outside the four sizes (R66, R152). -/
def Mrs.ofBytes (n : Nat) : Option Mrs :=
  if n = 64 then some .m64 else if n = 128 then some .m128 else if n = 256 then some .m256
  else if n = 512 then some .m512 else none

/-- The smaller of two sizes (R155). -/
def Mrs.smaller (a b : Mrs) : Mrs := if a.bytes ≤ b.bytes then a else b

/-- The request kind of a kind code; none for 4 to 255 (R31, R192). -/
def ReqKind.ofCode (c : BitVec 8) : Option ReqKind :=
  if c = 0 then some .read else if c = 1 then some .write else if c = 2 then some .post
  else if c = 3 then some .fence else none

/-- The kind code of a request or a TREQ (11.2, 11.3). -/
def ReqKind.code : ReqKind → Nat
  | .read => 0
  | .write => 1
  | .post => 2
  | .fence => 3

/-- The host status codes (11.4). -/
def HostStatus.code : HostStatus → Nat
  | .ok => 0
  | .poisonedData => 1
  | .denied => 2
  | .idInUse => 3
  | .badRequest => 4
  | .targetError => 5
  | .dataError => 6
  | .timeout => 7
  | .unavailable => 8
  | .faultSeen => 9

/-- The host status of a code; none for 10 and above (11.4). -/
def HostStatus.ofCode (n : Nat) : Option HostStatus :=
  [.ok, .poisonedData, .denied, .idInUse, .badRequest, .targetError, .dataError, .timeout, .unavailable,
    .faultSeen][n]?

/-- The end cause codes (11.4). -/
def EndCause.code : EndCause → Nat
  | .none => 0
  | .partReset => 1
  | .retrain => 2
  | .linkLoss => 3
  | .linkError => 4
  | .mgmtReset => 5
  | .stallFence => 6
  | .stallReset => 7
  | .portDisabled => 8

/-- The lane down cause codes (11.4). -/
def DownCause.code : DownCause → Nat
  | .none => 0
  | .carrierLoss => 1
  | .protocol => 2
  | .targetReset => 3

/-- The stall action codes (11.4). -/
def StallAction.code : StallAction → Nat
  | .note => 0
  | .fence => 1
  | .reset => 2

/-- The stall action of a code; none for 3 (R197). -/
def StallAction.ofCode (n : Nat) : Option StallAction :=
  [.note, .fence, .reset][n]?

/-- The log kind codes (11.4). -/
def LogKind.code : LogKind → Nat
  | .timeoutLapse => 1
  | .lateCompletion => 2
  | .unmatchedCompletion => 3
  | .malformedCompletion => 4
  | .retryExhausted => 5
  | .creditViolation => 6
  | .malformedRequest => 7
  | .postedRejected => 8
  | .orphanLapse => 9
  | .stallAction => 10
  | .sessionEnd => 11
  | .targetLaneDown => 12
  | .reshapeAborted => 13

/-- The codes of COMMAND_RESULT's result field (11.6). -/
def CmdResult.code : CmdResult → Nat
  | .none => 0
  | .done => 1
  | .invalid => 2
  | .busy => 3

/-- The codes of RESET_CAUSE (11.6). -/
def ResetCause.code : ResetCause → Nat
  | .powerOn => 0
  | .pin => 1
  | .soft => 2

/-- The codes of an ATTACH_NAK's cause (11.2). -/
def NakCause.code : NakCause → Nat
  | .range => 1
  | .disabled => 2

/-- The stall timer mode codes (11.6). -/
def StallMode.code : StallMode → Nat
  | .stopped => 0
  | .running => 1
  | .paused => 2

/-- The host lane state codes (11.6). -/
def HostLink.code : HostLink → Nat
  | .down => 0
  | .waiting => 1
  | .active => 2
  | .fenced => 3
  | .holdoff _ => 4

/-- The target lane state codes (11.6). -/
def TargetLink.code : TargetLink → Nat
  | .down => 0
  | .training _ => 1
  | .up => 2
  | .holdoff _ => 3

/-- The reshape outcome codes (11.6). -/
def ReshapeOutcome.code : ReshapeOutcome → Nat
  | .none => 0
  | .done => 1
  | .aborted => 2

/-- The five TCPL statuses the rules name; any other code is carried as received (R193). -/
inductive TcplStatus where
  | ok | poisoned | unsupported | aborted | retry
  | other
  deriving DecidableEq, Repr

/-- The status of a TCPL's status code (11.3). -/
def TcplStatus.ofCode (c : BitVec 8) : TcplStatus :=
  if c = 0 then .ok else if c = 1 then .poisoned else if c = 2 then .unsupported else if c = 3 then .aborted
  else if c = 4 then .retry else .other

/-- The three tables of the Policy Store, each with an index in its range (R182). -/
inductive TableIndex where
  | port (h : Port)
  | window (i : Fin 16)
  | global
  deriving DecidableEq, Repr

/-- The record that a table code and an index name; none outside their ranges (R182). -/
def TableIndex.ofArgs (a : BitVec 8) (b : BitVec 16) : Option TableIndex :=
  if a = 1 then (if hb : b.toNat < 4 then some (.port ⟨b.toNat, hb⟩) else none)
  else if a = 2 then (if hb : b.toNat < 16 then some (.window ⟨b.toNat, hb⟩) else none)
  else if a = 3 then (if b = 0 then some .global else none)
  else none

/-- The port that PORT_RESET's argument A names; none for 4 to 255 (R195). -/
def portOfArg (a : BitVec 8) : Option Port :=
  if ha : a.toNat < 4 then some ⟨a.toNat, ha⟩ else none

/-- The fields of a COMMAND word: code, argument A and argument B (11.6). -/
def commandCode (w : Word) : BitVec 8 := w.extractLsb' 0 8
def commandArgA (w : Word) : BitVec 8 := w.extractLsb' 8 8
def commandArgB (w : Word) : BitVec 16 := w.extractLsb' 16 16

/-- The eight commands of the management port (11.6). -/
inductive Command where
  | portReset | targetReset | softReset | reshape | logPop | logClear | tableFetch | tableCommit
  deriving DecidableEq, Repr

/-- The command codes (11.6). -/
def Command.code : Command → BitVec 8
  | .portReset => 1
  | .targetReset => 2
  | .softReset => 3
  | .reshape => 4
  | .logPop => 5
  | .logClear => 6
  | .tableFetch => 7
  | .tableCommit => 8

/-- The command of a code; none for 0 and 9 to 255 (R195). -/
def Command.ofCode (c : BitVec 8) : Option Command :=
  if c = 1 then some .portReset else if c = 2 then some .targetReset else if c = 3 then some .softReset
  else if c = 4 then some .reshape else if c = 5 then some .logPop else if c = 6 then some .logClear
  else if c = 7 then some .tableFetch else if c = 8 then some .tableCommit else none

/-- A command word is in range when its code names a command and each argument that command reads is in its range
(R180, R181, R195). -/
def commandInRange (w : Word) : Bool :=
  match Command.ofCode (commandCode w) with
  | none => false
  | some .portReset => (portOfArg (commandArgA w)).isSome
  | some .reshape => (Mrs.ofBytes (commandArgB w).toNat).isSome
  | some .tableFetch => (TableIndex.ofArgs (commandArgA w) (commandArgB w)).isSome
  | some .tableCommit => (TableIndex.ofArgs (commandArgA w) (commandArgB w)).isSome
  | some .targetReset => true
  | some .softReset => true
  | some .logPop => true
  | some .logClear => true

/-- The word addresses of the window with a write behaviour of their own (11.6). -/
abbrev addrCommand : BitVec 16 := 0x001
abbrev addrEventPending : BitVec 16 := 0x003
abbrev addrEventEnable : BitVec 16 := 0x004

/-- The staging word at an address, 0x040 to 0x04F (11.6). -/
def stagingIndex (addr : BitVec 16) : Option (Fin 16) :=
  if ha : 0x40 ≤ addr.toNat ∧ addr.toNat < 0x50 then some ⟨addr.toNat - 0x40, by omega⟩ else none

end Sys2Proof.Machine
end

