-- ==== Sys2Proof/Machine/Ops.lean ====
section
/-! DEFINITION. Named operations over the state: ports, slots and tags, the fault log, the management events, notices,
and the views that the spec defines by counting records (R2, R27, R28, R54). -/

namespace Sys2Proof.Machine

/-- Apply an operation `n` times. -/
def repeated {α : Type} (f : α → α) : Nat → α → α
  | 0, a => a
  | n + 1, a => repeated f n (f a)

/-- Every entry of a table, rewritten by its index and content. -/
def mapTable {α : Type} {n : Nat} (f : Fin n → α → α) (v : Vector α n) : Vector α n :=
  ⟨((List.finRange n).map fun i => f i v[i.val]).toArray, by simp⟩

abbrev allPorts : List Port := List.finRange 4
abbrev allSlots : List Slot := List.finRange 16
abbrev allTags : List Tag := List.finRange 128
abbrev allBlocks : List Block := List.finRange 256
abbrev allStageBlocks : List StageBlock := List.finRange 16

/-- What a port holds. -/
def State.port (s : State) (h : Port) : PortState := s.ports[h.val]

/-- Rewrite one port. -/
def State.modPort (s : State) (h : Port) (f : PortState → PortState) : State :=
  { s with ports := s.ports.set h.val (f (s.port h)) }

/-- Rewrite every port, lowest-numbered first. -/
def State.modPorts (s : State) (f : PortState → PortState) : State :=
  allPorts.foldl (fun acc h => acc.modPort h f) s

/-- The record of a tag; none for FREE (R1). -/
def State.tagRec (s : State) (t : Tag) : Option TagRec := s.tags[t.val]

/-- Write the record of a tag. -/
def State.setTag (s : State) (t : Tag) (r : Option TagRec) : State :=
  { s with tags := s.tags.set t.val r }

/-- The policy record of a port, as committed (R184). -/
def State.portPolicy (s : State) (h : Port) : PortPolicy := s.policy.ports[h.val]

/-- Window `w` of port `h` (R182). -/
def State.window (s : State) (h : Port) (w : Fin 4) : Window :=
  s.policy.windows[4 * h.val + w.val]

/-- What a slot holds; none for VACANT. -/
def PortState.slot (p : PortState) (i : Slot) : Option ReqRec := p.slots[i.val]

/-- Write a slot. -/
def PortState.setSlot (p : PortState) (i : Slot) (r : Option ReqRec) : PortState :=
  { p with slots := p.slots.set i.val r }

/-- A session is open exactly while the lane is ACTIVE (R115). -/
def PortState.isActive (p : PortState) : Bool := p.link == .active

/-- The target lane is UP exactly while its link state is UP (R148). -/
def State.targetUp (s : State) : Bool := s.target.link == .up

/-! Notices, events and the log -/

/-- The notice bits, in notice-bit order (11.2). -/
abbrev noticeCreditViolation : NoticeBits := 0b000001
abbrev noticeMalformedRequest : NoticeBits := 0b000010
abbrev noticePostedRejected : NoticeBits := 0b000100
abbrev noticeTargetDown : NoticeBits := 0b001000
abbrev noticeTargetUp : NoticeBits := 0b010000
abbrev noticePolicyChanged : NoticeBits := 0b100000

/-- Raise notice bits: they enter the pending set whatever the mask says, and only while the lane is ACTIVE (R128). -/
def raiseNotice (bits : NoticeBits) (p : PortState) : PortState :=
  if p.isActive then { p with noticePending := p.noticePending ||| bits } else p

/-- The places of the management events in EVENT_PENDING (11.6). -/
def eventLinkUp (h : Port) : Nat := h.val
def eventLinkDown (h : Port) : Nat := 4 + h.val
def eventStall (h : Port) : Nat := 8 + h.val
abbrev eventTargetDown : Nat := 12
abbrev eventReshapeEnd : Nat := 13
abbrev eventLogNonempty : Nat := 14
abbrev eventLogOverwrite : Nat := 15

/-- Raise an occurrence: it becomes pending, or stays so (R171). -/
def raiseEvent (e : Nat) (s : State) : State :=
  { s with events := { s.events with occ := s.events.occ ||| (1#16 <<< e) } }

/-- Append a log record: it takes the next sequence number and the present tick and goes to the tail (R164); an append
that finds a full list removes the oldest record and raises LOG_OVERWRITE (R167). -/
def appendLog (e : LogEntry) (s : State) : State :=
  let r : LogRec := { seq := s.log.next, tick := s.timebase, entry := e }
  if s.log.records.length < Config.logCapacity then
    { s with log := { s.log with records := s.log.records ++ [r], next := s.log.next + 1 } }
  else
    raiseEvent eventLogOverwrite
      { s with log := { s.log with records := s.log.records.drop 1 ++ [r], next := s.log.next + 1 } }

/-! Views over the records -/

/-- A tag is charged to port `h` while it is not FREE and its port field is `h` (R2). -/
def chargedTo (h : Port) (r : Option TagRec) : Bool :=
  match r with
  | some t => t.port == h
  | none => false

/-- held(h): the number of records that are not FREE and whose port field is `h` (R2). -/
def held (s : State) (h : Port) : Nat := s.tags.toList.countP (chargedTo h)

/-- The free count: the number of records in FREE (R1). -/
def freeTags (s : State) : Nat := s.tags.toList.countP (·.isNone)

/-- A tag record is in LAPSED. -/
def TagRec.isLapsed (r : TagRec) : Bool :=
  match r.phase with
  | .lapsed _ => true
  | _ => false

/-- A tag record is in BACKOFF. -/
def TagRec.isBackoff (r : TagRec) : Bool :=
  match r.phase with
  | .backoff _ _ => true
  | _ => false

/-- The number of records in LAPSED (R24). -/
def lapsedTags (s : State) : Nat :=
  s.tags.toList.countP fun r => match r with | some t => t.isLapsed | none => false

/-- The number of records whose orphaned flag is set (R24). -/
def orphanedTags (s : State) : Nat :=
  s.tags.toList.countP fun r => match r with | some t => t.orphaned | none => false

/-- The records of a port, in slot order. -/
def PortState.records (p : PortState) : List ReqRec := p.slots.toList.filterMap id

/-- The number of occupied slots. -/
def PortState.occupied (p : PortState) : Nat := p.records.length

/-- An ID is in the host ID map when a record whose mapped flag is set carries it (R27). -/
def PortState.idMapped (p : PortState) (id : HostId) : Bool :=
  p.records.any fun r => r.mapped && r.hostId == some id

/-- The staging blocks that the port's records hold (R28). -/
def PortState.heldStaging (p : PortState) : List StageBlock := p.records.flatMap (·.staging)

/-- The free staging blocks, lowest-numbered first (R28). -/
def PortState.freeStaging (p : PortState) : List StageBlock :=
  allStageBlocks.filter fun b => !p.heldStaging.contains b

/-- reserved(h): the number of blocks reserved to records of the port (R54). -/
def PortState.reserved (p : PortState) : Nat := (p.records.flatMap (·.blocks)).length

/-- Every block reserved to some READ record (R54). -/
def reservedBlocks (s : State) : List Block :=
  allPorts.flatMap fun h => (s.port h).records.flatMap (·.blocks)

/-- The free blocks of the Response Buffer, lowest-numbered first (R54). -/
def freeBlocks (s : State) : List Block :=
  allBlocks.filter fun b => !(reservedBlocks s).contains b

/-- The lowest-numbered VACANT slot (R25). -/
def PortState.vacantSlot (p : PortState) : Option Slot :=
  allSlots.find? fun i => (p.slot i).isNone

/-! Request records -/

/-- A status that sets the fence-fault flag at entry to READY (R42). -/
def HostStatus.failing (st : HostStatus) : Bool := st != .ok && st != .poisonedData

/-- The record is in its port's issue order: QUEUED or ISSUING (R26). -/
def ReqRec.inIssueOrder (r : ReqRec) : Bool := r.stage == .queued || r.stage == .issuing

/-- How many acceptances ago a record was accepted, modulo 65,536: the larger, the earlier (R26; log 9). -/
def PortState.age (p : PortState) (r : ReqRec) : Nat := (p.acceptSeq - r.seq).toNat

/-- The age of what a slot holds. -/
def PortState.slotAge (p : PortState) (i : Slot) : Nat :=
  match p.slot i with
  | some r => p.age r
  | none => 0

/-- Put a slot in its place by age, earliest first. -/
def insertByAge (p : PortState) (x : Slot) : List Slot → List Slot
  | [] => [x]
  | y :: ys => if p.slotAge x ≤ p.slotAge y then y :: insertByAge p x ys else x :: y :: ys

/-- The occupied slots in acceptance order, earliest first (R26). -/
def PortState.acceptanceOrder (p : PortState) : List Slot :=
  (allSlots.filter fun i => (p.slot i).isSome).foldr (insertByAge p) []

/-- The slot's record is in the issue order. -/
def PortState.waitsForIssue (p : PortState) (i : Slot) : Bool :=
  match p.slot i with
  | some r => r.inIssueOrder
  | none => false

/-- The earliest record in QUEUED or ISSUING (R26, R50). -/
def PortState.firstInOrder (p : PortState) : Option Slot := p.acceptanceOrder.find? p.waitsForIssue

/-- Hand request credits back for return in a GRANT (R29, R122). -/
def giveBack (hdr data : Nat) (p : PortState) : PortState :=
  { p with retHdr := p.retHdr + hdr, retData := p.retData + data }

/-- A record returns to VACANT: its header credit is handed back, and a data credit for each staging block it frees;
its host ID leaves the map and its blocks are released with it (R28, R29, R39, R45). -/
def vacate (i : Slot) (p : PortState) : PortState :=
  match p.slot i with
  | none => p
  | some r => giveBack 1 r.staging.length (p.setSlot i none)

/-- A record enters READY with a status: its staging blocks are freed, it joins the tail of the response queue, and a
failing status sets the fence-fault flag (R42, R43). -/
def enterReady (i : Slot) (status : HostStatus) (p : PortState) : PortState :=
  match p.slot i with
  | none => p
  | some r =>
    giveBack 0 r.staging.length
      { p.setSlot i (some { r with stage := .ready, status := some status, staging := [] }) with
        respQ := p.respQ ++ [i], fenceFault := p.fenceFault || status.failing }

/-- An earlier record of the port is in AWAITING (R41). -/
def PortState.earlierAwaiting (p : PortState) (r : ReqRec) : Bool :=
  p.records.any fun q => q.stage == .awaiting && decide (p.age r < p.age q)

/-- The FENCE that may enter READY: the port's issue head, with no earlier record in AWAITING (R41). -/
def PortState.readyFence (p : PortState) : Option Slot :=
  match p.firstInOrder with
  | none => none
  | some i =>
    match p.slot i with
    | none => none
    | some r => if r.kind == .fence && !p.earlierAwaiting r then some i else none

/-- A FENCE enters READY: FAULT_SEEN if the flag is set and OK if it is clear, and the flag is then cleared (R42). -/
def fenceStep (p : PortState) : PortState :=
  match p.readyFence with
  | none => p
  | some i => { enterReady i (if p.fenceFault then .faultSeen else .ok) p with fenceFault := false }

/-- The test of the port's FENCEs, made until none may enter READY; at most sixteen can (R41; log 8). -/
def fenceTest (p : PortState) : PortState := repeated fenceStep 16 p

/-! Retirement (4.7, 4.8) -/

/-- The error-map entry of a failure outcome (R89). OK and CANCELLED are no failures and have none. -/
def ErrorMap.entry (m : ErrorMap) : SubOutcome → HostStatus
  | .unsupported => m.unsupported
  | .aborted => m.aborted
  | .poisoned => m.poisoned
  | .timeout => m.timeout
  | .linkDown => m.linkDown
  | .malformed => m.malformed
  | .retryExhausted => m.retryExhausted
  | .ok => .ok
  | .cancelled => .ok

/-- Whether an outcome is a failure at its retirement; POISONED is one unless the map's entry is POISONED_DATA (R86,
R87). -/
def isFailure (m : ErrorMap) : SubOutcome → Bool
  | .ok => false
  | .cancelled => false
  | .poisoned => m.poisoned != .poisonedData
  | _ => true

/-- Cancel the entries from an index on (R88). -/
def cancelFrom : Nat → List Sub → List Sub
  | _, [] => []
  | 0, x :: xs => { x with outcome := some (x.outcome.getD .cancelled) } :: cancelFrom 0 xs
  | n + 1, x :: xs => x :: cancelFrom n xs

/-- Record a first failure, once, and cancel the unissued entries of a record in ISSUING, which moves to AWAITING (R87,
R88). -/
def recordFailure (o : SubOutcome) (offset : Nat) (r : ReqRec) : ReqRec :=
  if r.firstFailure.isSome then r
  else
    match r.stage, r.cut with
    | .issuing, some c =>
      { r with firstFailure := some (o, offset), stage := .awaiting,
               cut := some { c with subs := cancelFrom c.next c.subs, next := c.subs.length } }
    | _, _ => { r with firstFailure := some (o, offset) }

/-- The response status of a record entering READY from AWAITING (R90). -/
def responseStatus (m : ErrorMap) (r : ReqRec) : HostStatus :=
  match r.firstFailure with
  | some (.poisoned, _) => if m.poisoned = .poisonedData then .dataError else m.poisoned
  | some (o, _) => m.entry o
  | none => if r.firstPoisoned.isSome then m.poisoned else .ok

/-- The first failure of a record entering READY: set to POISONED at the first poisoned offset when the map refuses
poisoned data at READY (R90, fourth row). -/
def failureAtReady (m : ErrorMap) (r : ReqRec) : Option (SubOutcome × Nat) :=
  match r.firstFailure, r.firstPoisoned with
  | some f, _ => some f
  | none, some o => if m.poisoned = .poisonedData then none else some (.poisoned, o)
  | none, none => none

/-- Every entry of the list has an outcome (R92). -/
def ReqRec.allRetired (r : ReqRec) : Bool :=
  match r.cut with
  | some c => c.subs.all fun x => x.outcome.isSome
  | none => false

/-- The test of entry to READY: a record in AWAITING, every entry of which has an outcome (R92). -/
def readyTest (m : ErrorMap) (i : Slot) (p : PortState) : PortState :=
  match p.slot i with
  | none => p
  | some r =>
    if r.stage == .awaiting && r.allRetired then
      enterReady i (responseStatus m r) (p.setSlot i (some { r with firstFailure := failureAtReady m r }))
    else p

/-- The retirement path at the record: the outcome is written into an entry that has none, a failure is recorded, and
entry to READY and the waiting FENCE are tested (R86, R92). -/
def retireAt (m : ErrorMap) (i : Slot) (n : Nat) (o : SubOutcome) (p : PortState) : PortState :=
  match p.slot i with
  | none => p
  | some r =>
    match r.cut with
    | none => p
    | some c =>
      match c.subs[n]? with
      | none => p
      | some x =>
        if x.outcome.isSome then p
        else
          let r1 := { r with cut := some { c with subs := c.subs.modify n fun y => { y with outcome := some o } } }
          let r2 := if isFailure m o then recordFailure o x.offset r1 else r1
          fenceTest (readyTest m i (p.setSlot i (some r2)))

/-- End a data-credit hold whose holder is port `h` (R64, R71). -/
def endPortHold (h : Port) (a : Arbiter) : Arbiter :=
  if a.dataHold = some (.port h) then { a with dataHold := none } else a

/-- The slot's record has left the issue order between two states of its port. -/
def leftIssueOrder (p q : PortState) (i : Slot) : Bool := p.waitsForIssue i && !q.waitsForIssue i

/-- Retire a subrequest with an outcome; a hold in which the port stood for this record's head ends when the record
leaves the issue order (R86, R88). -/
def retire (h : Port) (i : Slot) (n : Nat) (o : SubOutcome) (s : State) : State :=
  let p := s.port h
  let q := retireAt (s.portPolicy h).errorMap i n o p
  let s1 := s.modPort h fun _ => q
  if leftIssueOrder p q i then { s1 with arb := endPortHold h s1.arb } else s1

/-- The issued entries of a record that have not retired, with their tags, in list order (R86). -/
def outstanding (r : ReqRec) : List (Nat × Tag) :=
  match r.cut with
  | none => []
  | some c => c.subs.zipIdx.filterMap fun (x, n) => if x.outcome.isNone then x.tag.map fun t => (n, t) else none

/-- A tag record is live work of the entry: not orphaned, not LAPSED, and it names the entry (R75). -/
def liveFor (s : State) (h : Port) (i : Slot) (n : Nat) (t : Tag) : Bool :=
  match s.tagRec t with
  | some r => !r.orphaned && !r.isLapsed && r.port == h && r.slot == i && r.sub == n
  | none => false

/-- Every live subrequest, by port, then acceptance order, then list order (R86, R166; log 6). -/
def liveEntries (s : State) : List (Port × Slot × Nat × Tag) :=
  allPorts.flatMap fun h =>
    (s.port h).acceptanceOrder.flatMap fun i =>
      match (s.port h).slot i with
      | none => []
      | some r => (outstanding r).filterMap fun (n, t) => if liveFor s h i n t then some (h, i, n, t) else none

/-- Retire each subrequest of a list with one outcome, in order. -/
def retireAll (o : SubOutcome) (es : List (Port × Slot × Nat × Tag)) (s : State) : State :=
  es.foldl (fun acc e => retire e.1 e.2.1 e.2.2.1 o acc) s

/-! Tags -/

/-- A tag returns to FREE; its port's held count falls with it (R2). -/
def freeTag (t : Tag) (s : State) : State := s.setTag t none

/-- A tag lapses: quarantined for the period in force, or FREE at once where the period is 0 (R106). -/
def lapse (t : Tag) (r : TagRec) (s : State) : State :=
  if s.policy.global.quarantine = 0 then freeTag t s
  else s.setTag t (some { r with phase := .lapsed (after s.timebase s.policy.global.quarantine) })

/-- A tag leaves the retry queue, and a data-credit hold whose holder it is ends (R14, R61, R64). -/
def leaveRetryQueue (t : Tag) (a : Arbiter) : Arbiter :=
  { a with retryQ := a.retryQ.filter (· != t),
           dataHold := if a.dataHold = some (.tag t) then none else a.dataHold }

/-! Reshape (3.9) -/

/-- A tag that a drain waits for: ISSUED, FILLING or BACKOFF, orphaned or not (R66). -/
def drainWaitsFor (r : Option TagRec) : Bool :=
  match r with
  | some t => !t.isLapsed
  | none => false

/-- The completion condition of a drain: no record in ISSUING and no tag in ISSUED, FILLING or BACKOFF (R66). -/
def drainClear (s : State) : Bool :=
  (allPorts.all fun h => (s.port h).records.all fun r => r.stage != .issuing) &&
    s.tags.toList.all fun r => !drainWaitsFor r

/-- The drain completes: the configured MRS takes the requested size, the outcome is DONE, the state IDLE, RESHAPE_END
is raised, and the effective MRS is formed again from the target maximum as it stands (R68, R155). That it is formed at the
completion also while the lane is not UP is DESIGN CHOICE, log 31: R155 also says that it keeps its value in that time. -/
def completeDrain (size : Mrs) (s : State) : State :=
  raiseEvent eventReshapeEnd
    { s with arb := { s.arb with configuredMrs := size, outcome := .done, reshape := .idle },
             target := { s.target with effMrs := s.target.maxReq.map size.smaller } }

/-- The test of a drain in progress (R66; log 8). -/
def drainTest (s : State) : State :=
  match s.arb.reshape with
  | .idle => s
  | .draining size _ _ => if drainClear s then completeDrain size s else s

end Sys2Proof.Machine
end

