-- ==== Sys2Proof/Machine/Flags.lean ====
section
/-! DEFINITION. Flags and conditions that follow the state: the pending set and ALERT_N (9.2), the due notice and the
outbound selection (R126, R129), waiting on credits and the stall timer's reports (R127, R140), and the reset hold. -/

namespace Sys2Proof.Machine

/-- The part is held in reset and takes no event (R189). -/
def State.inHold (s : State) : Bool := s.hold.isSome

/-- An event is taken only outside the reset hold (R189). -/
def takes (f : State → State) (s : State) : Host.Outcome State Fault Refusal :=
  .next (if s.inHold then s else f s)

/-- The pending set: the occurrence bits with the two condition bits (R172, R173). -/
def pendingSet (s : State) : BitVec 16 :=
  s.events.occ ||| (if s.targetUp then 0 else 1#16 <<< eventTargetDown) |||
    (if s.log.records.isEmpty then 0 else 1#16 <<< eventLogNonempty)

/-- ALERT_N is driven low while at least one event is both pending and enabled (R174), and released in the reset hold
(R189). -/
def alertLow (s : State) : Bool := !s.inHold && pendingSet s &&& s.events.enable != 0

/-- A host lane's transmitter is off in HOLDOFF and in the reset hold, and otherwise runs (R115, R189). -/
def hostTransmitterOn (s : State) (h : Port) : Bool :=
  !s.inHold && (match (s.port h).link with | .holdoff _ => false | _ => true)

/-- The target lane's transmitter is off in HOLDOFF and in the reset hold, and otherwise runs (8.1, R189). -/
def targetTransmitterOn (s : State) : Bool :=
  !s.inHold && (match s.target.link with | .holdoff _ => false | _ => true)

/-- A NOTICE is due: none is outstanding and the pending set has an enabled bit (R129). -/
def PortState.noticeDue (p : PortState) : Bool := p.snapshot.isNone && p.noticePending &&& p.noticeMask != 0

/-- A GRANT is pending while either count waiting to be returned is above 0 (R122). -/
def PortState.grantPending (p : PortState) : Bool := decide (0 < p.retHdr) || decide (0 < p.retData)

/-- The data credits a record's RESPONSE needs: its blocks for a READ answered OK or POISONED_DATA, else none (R124). -/
def ReqRec.dataNeed (r : ReqRec) : Nat :=
  if r.kind = .read ∧ (r.status = some .ok ∨ r.status = some .poisonedData) then ceilBlocks r.length else 0

/-- The record of a slot of the response queue has the header credit and the data credits it needs (R126). -/
def PortState.creditsFor (p : PortState) (i : Slot) : Bool :=
  match p.slot i with
  | some r => decide (1 ≤ p.respHdr) && decide (r.dataNeed ≤ p.respData)
  | none => false

/-- The four rows of the outbound selection (R126). -/
inductive Outbound where
  | answer | grant | notice | response
  deriving DecidableEq, Repr

/-- The lane sends packets: it is WAITING, ACTIVE or FENCED (R126). -/
def HostLink.sends : HostLink → Bool
  | .waiting => true
  | .active => true
  | .fenced => true
  | .down => false
  | .holdoff _ => false

/-- The outbound selection: with the transmitter free, the first row whose condition holds (R126). -/
def PortState.selected (p : PortState) : Option Outbound :=
  if p.tx.isSome || !p.link.sends then none
  else if p.answer.isSome then some .answer
  else if !p.isActive then none
  else if p.grantPending then some .grant
  else if p.noticeDue && decide (1 ≤ p.respHdr) then some .notice
  else
    match p.respQ.head? with
    | some i => if p.creditsFor i then some .response else none
    | none => none

/-- A RESPONSE is being sent; its record is still the head of the response queue (R43). -/
def PortState.sendingResponse (p : PortState) : Bool :=
  match p.tx with
  | some (.response _ _ _ _ _) => true
  | _ => false

/-- A GRANT or an attach answer is being sent. -/
def PortState.sendingAhead (p : PortState) : Bool :=
  match p.tx with
  | some (.grant _ _) => true
  | some (.answer _) => true
  | _ => false

/-- A NOTICE or RESPONSE is waiting on credits (R127). DEDUCED from the examples of 6.6 and 7.5, log 10: a GRANT or an
attach answer counts as ahead until it has been sent, and the record being sent is not waiting. -/
def PortState.waitingOnCredits (p : PortState) : Bool :=
  p.isActive && p.answer.isNone && !p.grantPending && !p.sendingAhead &&
    (if p.noticeDue then decide (p.respHdr = 0)
     else
       match p.respQ.head? with
       | some i => !p.sendingResponse && !p.creditsFor i
       | none => false)

/-- Nothing is left to send that needs the host's credit: no NOTICE is due, and the response queue is empty but for the
record being sent (R140; log 11). -/
def PortState.nothingQueued (p : PortState) : Bool :=
  !p.noticeDue && (if p.sendingResponse then p.respQ.drop 1 else p.respQ).isEmpty

/-- What the reports of R127 make of the stall timer, from the condition and the queue as an event leaves them (R140). -/
def report (p : PortState) : PortState :=
  if !p.isActive then p
  else if p.waitingOnCredits then { p with stallMode := .running }
  else if p.stallMode = .stopped then p
  else if p.nothingQueued then { p with stallMode := .stopped, stallCount := 0 }
  else { p with stallMode := .paused }

/-- The reports of all four ports after an event. -/
def reportAll (s : State) : State := s.modPorts report

/-- The start of a NOTICE or RESPONSE transmission resets the stall count whatever the mode (R140). -/
def restartCount (p : PortState) : PortState := { p with stallCount := 0 }

end Sys2Proof.Machine
end

