-- ==== Sys2Proof/Machine/Sessions.lean ====
section
/-! DEFINITION. Sessions, port reset and stall supervision (07), with what a port reset does to the tags (R19), the
arbiter (R71) and the host lane (R131). -/

namespace Sys2Proof.Machine

/-- How a lane's packet is cut off at a port reset (R123). -/
def cutFormOf : EndCause → CutForm
  | .linkLoss => .closed
  | .retrain => .closed
  | .stallFence => .closed
  | .none => .closed
  | .partReset => .closed
  | .linkError => .stopped
  | .mgmtReset => .stopped
  | .stallReset => .stopped
  | .portDisabled => .stopped

/-- The packet in transmission is abandoned (R123). -/
def cutOff (f : CutForm) (p : PortState) : PortState :=
  match p.tx with
  | none => p
  | some k => { p with tx := none, lastCut := some (f, k) }

/-- A lane enters HOLDOFF: the transmitter goes off, the packet being sent stops partway, a pending attach answer is
discarded, and the holdoff end is set 64 ticks on (R118, R120, R123). -/
def enterHoldoff (now : Tick) (p : PortState) : PortState :=
  { cutOff .stopped p with link := .holdoff (now + Config.holdoffTicks), answer := none }

/-- A lane enters DOWN, and carrier detection is taken at that entry: it goes on to WAITING where the host is driving
carrier (R115). -/
def enterDown (p : PortState) : PortState :=
  { p with link := if p.carrier then .waiting else .down, answer := none }

/-- The lane state that a port reset's cause calls for (R131); a retrain is then checked as in WAITING (R121). -/
def laneAfter (now : Tick) : EndCause → HostLink
  | .linkLoss => .down
  | .linkError => .holdoff (now + Config.holdoffTicks)
  | .mgmtReset => .holdoff (now + Config.holdoffTicks)
  | .stallReset => .holdoff (now + Config.holdoffTicks)
  | .portDisabled => .holdoff (now + Config.holdoffTicks)
  | .stallFence => .fenced
  | .retrain => .waiting
  | .none => .down
  | .partReset => .down

/-- The port's own blocks at a port reset: Intake (R46), Port Supervisor (R136) and Host Lane Interface (R131). -/
def resetPort (now : Tick) (cause : EndCause) (p : PortState) : PortState :=
  { cutOff (cutFormOf cause) p with
    link := laneAfter now cause, reqHdr := 0, reqData := 0, retHdr := 0, retData := 0, respHdr := 0, respData := 0,
    noticePending := 0, snapshot := none, answer := none,
    endCause := cause, stallMode := .stopped, stallCount := 0, stallDue := false, fenceFault := false,
    slots := Vector.replicate 16 none, respQ := [], acceptSeq := 0 }

/-- A tag record at a port reset of `h` (R19). -/
def orphanTag (h : Port) (r : Option TagRec) : Option TagRec :=
  match r with
  | none => none
  | some t =>
    if t.port = h then
      match t.phase with
      | .issued _ => some { t with orphaned := true }
      | .filling _ => some { t with orphaned := true }
      | .backoff _ _ => none
      | .lapsed _ => some t
    else some t

/-- The holder of a hold belongs to port `h`: the port itself, or one of its tags (R71). -/
def holderOf (s : State) (h : Port) : Holder → Bool
  | .port g => g == h
  | .tag t => chargedTo h (s.tagRec t)

/-- The Issue Arbiter at a port reset of `h` (R71), read against the tags as they stood. -/
def arbAtPortReset (s : State) (h : Port) : Arbiter :=
  { s.arb with
    retryQ := s.arb.retryQ.filter fun t => !chargedTo h (s.tagRec t),
    dataHold := s.arb.dataHold.filter fun x => !holderOf s h x,
    claims := s.arb.claims.filter fun c => c.1 != h }

/-- A port reset of port `h`, one event in every block (R136): SESSION_END is logged and LINK_DOWN raised (R137), tags
are orphaned or freed, the arbiter drops the port, the port's blocks clear the session, and a drain is tested (R70). -/
def portResetTaken (h : Port) (cause : EndCause) (s : State) : State :=
  let s1 := appendLog { kind := .sessionEnd, port := some h, session := some (s.port h).session,
                        detail := some cause.code } s
  let s2 := raiseEvent (eventLinkDown h) s1
  let s3 := { s2 with tags := mapTable (fun _ => orphanTag h) s2.tags, arb := arbAtPortReset s2 h }
  drainTest (s3.modPort h (resetPort s3.timebase cause))

/-- The number of the next session: it rises by one and wraps from 255 to 1 (R134). -/
def nextSession (n : Nat) : Nat := if n < 255 then n + 1 else 1

/-- An ATTACH opens a session (R119, R134). The transmitter becomes free as the lane enters ACTIVE (R126); how an ATTACH_NAK
being sent then ends is DESIGN CHOICE, log 14: it is closed as at a RETRAIN (R123). -/
def openSession (up : Bool) (mask : NoticeBits) (hdrCap dataCap : Nat) (p : PortState) : PortState :=
  { cutOff .closed p with
    link := .active, session := nextSession p.session, endCause := .none, stallMode := .stopped, stallCount := 0,
    capHdr := hdrCap, capData := dataCap, respHdr := hdrCap, respData := dataCap, noticeMask := mask,
    noticePending := if up then 0 else noticeTargetDown, snapshot := none,
    reqHdr := Config.requestSlots, reqData := Config.stagingBlocks, retHdr := 0, retData := 0,
    answer := some (.ack (nextSession p.session) p.endCause) }

/-- The checks of an ATTACH, in order: the cause of the refusal, or none where it is accepted (R119). -/
def attachRefusal (enabled : Bool) (hdrCap dataCap : Nat) : Option NakCause :=
  if !enabled then some .disabled
  else if 1 ≤ hdrCap ∧ hdrCap ≤ 64 ∧ 8 ≤ dataCap ∧ dataCap ≤ 1024 then none
  else some .range

/-- An ATTACH checked in WAITING, in FENCED, or after the port reset of a retrain (R119, R121). -/
def attachHandshake (h : Port) (mask : NoticeBits) (hdrCap dataCap : Nat) (s : State) : State :=
  match attachRefusal (s.portPolicy h).enabled hdrCap dataCap with
  | some c => s.modPort h fun p => { p with link := .waiting, answer := some (.nak c) }
  | none => raiseEvent (eventLinkUp h) (s.modPort h (openSession s.targetUp mask hdrCap dataCap))

/-- ATTACH: the handshake in WAITING and FENCED, a retrain in ACTIVE, discarded in HOLDOFF; none arrives in DOWN (R116,
R119, R121). -/
def takeAttach (h : Port) (mask : NoticeBits) (hdrCap dataCap : Nat) (s : State) : State :=
  match (s.port h).link with
  | .waiting => attachHandshake h mask hdrCap dataCap s
  | .fenced => attachHandshake h mask hdrCap dataCap s
  | .active => attachHandshake h mask hdrCap dataCap (portResetTaken h .retrain s)
  | .down => s
  | .holdoff _ => s

def execAttach (h : Port) (mask : NoticeBits) (hdrCap : BitVec 8) (dataCap : BitVec 16) (s : State) :
    Host.Outcome State Fault Refusal :=
  takes (fun s => reportAll (takeAttach h mask hdrCap.toNat dataCap.toNat s)) s

/-- PORT_RESET on the lane of port `h` (R138). -/
def portResetOnLane (h : Port) (s : State) : State :=
  match (s.port h).link with
  | .active => portResetTaken h .mgmtReset s
  | .waiting => s.modPort h (enterHoldoff s.timebase)
  | .fenced => s.modPort h (enterHoldoff s.timebase)
  | .down => s
  | .holdoff _ => s

/-! Stall supervision (7.5) -/

/-- The count of a RUNNING stall timer has reached the port's stall window (R141). -/
def stallReached (w : Nat) (p : PortState) : Bool :=
  p.stallMode == .running && decide (0 < w) && decide (Config.stallUnit * w ≤ p.stallCount)

/-- What a tick event does to a stall timer: a RUNNING timer counts, and whether its expiry is due is noted for
STALL_EXPIRY (R141; log 12). -/
def stallTick (w : Nat) (p : PortState) : PortState :=
  let p1 := if p.stallMode = .running then { p with stallCount := min Config.stallCountMax (p.stallCount + 1) } else p
  { p1 with stallDue := stallReached w p1 }

/-- The stall expiry of port `h` is due at the present tick event, by the window as it now stands (R141, R145). -/
def stallExpiryDue (s : State) (h : Port) : Bool :=
  (s.port h).stallDue && stallReached (s.portPolicy h).stallWindow (s.port h)

/-- A stall expiry: STALL_ACTION is logged and STALL raised; NOTE sets the count to 0, FENCE and RESET take a port reset
(R142 to R144). -/
def takeStallExpiry (h : Port) (s : State) : State :=
  if stallExpiryDue s h then
    let act := (s.portPolicy h).stallAction
    let s1 := appendLog { kind := .stallAction, port := some h, session := some (s.port h).session,
                          detail := some act.code } s
    let s2 := raiseEvent (eventStall h) s1
    match act with
    | .note => s2.modPort h fun p => { p with stallCount := 0, stallDue := false }
    | .fence => portResetTaken h .stallFence s2
    | .reset => portResetTaken h .stallReset s2
  else s

def execStallExpiry (h : Port) (s : State) : Host.Outcome State Fault Refusal :=
  takes (takeStallExpiry h) s

end Sys2Proof.Machine
end

