-- ==== Sys2Proof/Machine/HostLane.lean ====
section
/-! DEFINITION. The Host Lane Interfaces: carrier, check failures, holdoff, credits, notices and transmissions (06). -/

namespace Sys2Proof.Machine

/-- HOST_CARRIER_DETECT: in DOWN the lane goes to WAITING; elsewhere nothing changes but the level (R115). In the reset
hold no event is taken, and only the level of the input is followed (R189; log 16). -/
def detectCarrier (p : PortState) : PortState :=
  { p with carrier := true, link := if p.link = .down then .waiting else p.link }

def execHostCarrierDetect (h : Port) (s : State) : Host.Outcome State Fault Refusal :=
  .next (if s.inHold then s.modPort h fun p => { p with carrier := true } else s.modPort h detectCarrier)

/-- HOST_CARRIER_LOSS (R117): WAITING and FENCED go DOWN, ACTIVE takes a port reset with cause LINK_LOSS, HOLDOFF
ignores it. -/
def loseCarrier (h : Port) (s : State) : State :=
  let s1 := s.modPort h fun p => { p with carrier := false }
  match (s.port h).link with
  | .waiting => s1.modPort h fun p => enterDown (cutOff .closed p)
  | .fenced => s1.modPort h fun p => enterDown (cutOff .closed p)
  | .active => portResetTaken h .linkLoss s1
  | .down => s1
  | .holdoff _ => s1

def execHostCarrierLoss (h : Port) (s : State) : Host.Outcome State Fault Refusal :=
  .next (if s.inHold then s.modPort h fun p => { p with carrier := false } else loseCarrier h s)

/-- HOST_CHECK_FAILURE (R117): WAITING and FENCED go to HOLDOFF, ACTIVE takes a port reset with cause LINK_ERROR, HOLDOFF
ignores it; none arrives in DOWN. -/
def failCheck (h : Port) (s : State) : State :=
  match (s.port h).link with
  | .waiting => s.modPort h (enterHoldoff s.timebase)
  | .fenced => s.modPort h (enterHoldoff s.timebase)
  | .active => portResetTaken h .linkError s
  | .down => s
  | .holdoff _ => s

def execHostCheckFailure (h : Port) (s : State) : Host.Outcome State Fault Refusal := takes (failCheck h) s

/-- The lane is in HOLDOFF and its end tick is reached (R118). -/
def holdoffDue (now : Tick) (p : PortState) : Bool :=
  match p.link with
  | .holdoff e => reached now e
  | _ => false

/-- HOST_HOLDOFF_END: HOLDOFF ends, the lane enters DOWN with its transmitter on, and goes on to WAITING where carrier is
present (R118). -/
def endHoldoff (h : Port) (s : State) : State :=
  if holdoffDue s.timebase (s.port h) then s.modPort h enterDown else s

def execHostHoldoffEnd (h : Port) (s : State) : Host.Outcome State Fault Refusal := takes (endHoldoff h) s

/-- CREDIT in ACTIVE: both counts rise, each clamped to its declared capacity (R125). -/
def takeCredit (hdr data : Nat) (p : PortState) : PortState :=
  { p with respHdr := min p.capHdr (p.respHdr + hdr), respData := min p.capData (p.respData + data) }

def execCredit (h : Port) (hdr : BitVec 8) (data : BitVec 16) (s : State) : Host.Outcome State Fault Refusal :=
  takes (fun s =>
    if (s.port h).isActive then reportAll (s.modPort h (takeCredit hdr.toNat data.toNat)) else s) s

/-- NOTICE_ACK while a notice is outstanding: snapshot bits it lists are cleared, the others go back to the pending set
(R130; DESIGN CHOICE, log 29: a masked pending bit stays, whatever the NOTICE_ACK lists). -/
def acknowledge (bits : NoticeBits) (p : PortState) : PortState :=
  match p.snapshot with
  | none => p
  | some sn => { p with noticePending := p.noticePending ||| (sn &&& ~~~bits), snapshot := none }

def execNoticeAck (h : Port) (bits : NoticeBits) (s : State) : Host.Outcome State Fault Refusal :=
  takes (fun s => if (s.port h).isActive then reportAll (s.modPort h (acknowledge bits)) else s) s

/-- HOST_UNUSABLE_PACKET: discarded, whatever the link state, with no effect on any state (R192). -/
def execHostUnusablePacket (_h : Port) (_bytes : List Byte) (s : State) : Host.Outcome State Fault Refusal :=
  takes (fun s => s) s

/-! Transmissions (6.3 to 6.6) -/

/-- The RESPONSE of the head of the response queue, built as its transmission starts (R44). -/
def responseOf (buffer : Memory) (i : Slot) (r : ReqRec) : HostPacket :=
  let st := r.status.getD .ok
  let offset := match r.firstFailure with
    | some (_, o) => o
    | none => if st = .poisonedData then r.firstPoisoned.getD 0 else 0
  .response i st (r.hostId.getD 0)
    (if st = .ok ∨ st = .idInUse then none else some offset)
    (if r.kind = .read ∧ (st = .ok ∨ st = .poisonedData) then
      some (loadBytes (r.blocks.map (·.val)) buffer 0 r.length) else none)

/-- The start of a pending attach answer (R120). -/
def startAnswer (p : PortState) : PortState :=
  match p.answer with
  | some a => { p with tx := some (.answer a), answer := none }
  | none => p

/-- The start of a GRANT: it takes both counts as they stand, and they fall to 0 (R122). -/
def startGrant (p : PortState) : PortState :=
  { p with tx := some (.grant p.retHdr p.retData), retHdr := 0, retData := 0 }

/-- The start of a NOTICE: the snapshot is taken and removed from the pending set, and a header credit is used (R124,
R129). -/
def startNotice (p : PortState) : PortState :=
  let sn := p.noticePending &&& p.noticeMask
  restartCount
    { p with tx := some (.notice sn), snapshot := some sn, noticePending := p.noticePending &&& ~~~p.noticeMask,
             respHdr := p.respHdr - 1 }

/-- The start of the RESPONSE of the queue's head: a header credit and its data credits are used (R44, R124). -/
def startResponse (buffer : Memory) (p : PortState) : PortState :=
  match p.respQ.head? with
  | none => p
  | some i =>
    match p.slot i with
    | none => p
    | some r =>
      restartCount
        { p with tx := some (responseOf buffer i r), respHdr := p.respHdr - 1, respData := p.respData - r.dataNeed }

/-- A start of transmission happens where the outbound selection names its row (R126). -/
def startIf (o : Outbound) (f : PortState → PortState) (p : PortState) : PortState :=
  if p.selected = some o then f p else p

def execAttachAnswerStart (h : Port) (s : State) : Host.Outcome State Fault Refusal :=
  takes (fun s => reportAll (s.modPort h (startIf .answer startAnswer))) s

def execGrantTransmissionStart (h : Port) (s : State) : Host.Outcome State Fault Refusal :=
  takes (fun s => reportAll (s.modPort h (startIf .grant startGrant))) s

def execNoticeTransmissionStart (h : Port) (s : State) : Host.Outcome State Fault Refusal :=
  takes (fun s => reportAll (s.modPort h (startIf .notice startNotice))) s

def execResponseTransmissionStart (h : Port) (s : State) : Host.Outcome State Fault Refusal :=
  takes (fun s => reportAll (s.modPort h (startIf .response (startResponse s.buffer)))) s

/-- The end of a RESPONSE: its record returns to VACANT and leaves the response queue; its host ID, its blocks and its
header credit go with it (R45). -/
def endResponse (p : PortState) : PortState :=
  match p.tx with
  | some (.response i _ _ _ _) => vacate i { p with tx := none, respQ := p.respQ.erase i }
  | _ => p

def execResponseTransmissionEnd (h : Port) (s : State) : Host.Outcome State Fault Refusal :=
  takes (fun s => reportAll (s.modPort h endResponse)) s

/-- The end of a GRANT: its counts are added to the credits held by the host (R122). -/
def endGrant (p : PortState) : PortState :=
  match p.tx with
  | some (.grant a b) => { p with tx := none, reqHdr := p.reqHdr + a, reqData := p.reqData + b }
  | _ => p

def execGrantTransmissionEnd (h : Port) (s : State) : Host.Outcome State Fault Refusal :=
  takes (fun s => reportAll (s.modPort h endGrant)) s

/-- The end of a NOTICE or an attach answer: the transmitter is free (R126). -/
def endOther (p : PortState) : PortState :=
  match p.tx with
  | some (.notice _) => { p with tx := none }
  | some (.answer _) => { p with tx := none }
  | _ => p

def execHostTransmissionEnd (h : Port) (s : State) : Host.Outcome State Fault Refusal :=
  takes (fun s => reportAll (s.modPort h endOther)) s

end Sys2Proof.Machine
end

