-- ==== Sys2Proof/Machine/FaultLog.lean ====
section
/-! DEFINITION. LOG_POP and LOG_CLEAR at the Fault Log (R168, R169), and the result every command writes (R180). -/

namespace Sys2Proof.Machine

/-- COMMAND_RESULT takes the code as written and the result (R180). -/
def setResult (code : BitVec 8) (r : CmdResult) (s : State) : State :=
  { s with mgmt := { s.mgmt with lastCommand := code, result := r, frame := .idle } }

/-- The oldest record moves into the log view; an empty list empties the view (R168). -/
def popLog (l : FaultLog) : FaultLog :=
  match l.records with
  | [] => { l with view := none }
  | r :: rest => { l with records := rest, view := some r }

/-- Every record leaves the list; the next sequence number and the view stay (R169). -/
def clearLog (l : FaultLog) : FaultLog := { l with records := [] }

def commandLogPop (s : State) : State :=
  setResult Command.logPop.code .done { s with log := popLog s.log }

def commandLogClear (s : State) : State :=
  setResult Command.logClear.code .done { s with log := clearLog s.log }

/-- LOG_POP (R168, R181). -/
def execLogPop (s : State) : Host.Outcome State Fault Refusal := takes commandLogPop s

/-- LOG_CLEAR (R169, R181). -/
def execLogClear (s : State) : Host.Outcome State Fault Refusal := takes commandLogClear s

end Sys2Proof.Machine
end

