-- ==== Sys2Proof/Machine/Issue.lean ====
section
/-! DEFINITION. Issue: splitting, the tag allocation test, the Response Buffer's reservations and claims, eligibility, the
data-credit hold, the round-robin, the grants, and reshape (01 section 1.2, 03). -/

namespace Sys2Proof.Machine

/-! Tag allocation (1.2) -/

/-- unused(h): the part of the floor that the held count does not use (R3). -/
def unused (s : State) (h : Port) : Nat := (s.portPolicy h).floor - held s h

/-- The sum of the unused reservations of all four ports. -/
def unusedAll (s : State) : Nat := (allPorts.map (unused s)).sum

/-- The sum of the unused reservations of the three other ports. -/
def unusedOthers (s : State) (h : Port) : Nat := ((allPorts.filter (· != h)).map (unused s)).sum

/-- The allocation test for port `h` (R3, R4). -/
def tagTest (s : State) (h : Port) : Bool :=
  decide (1 ≤ freeTags s) && decide (held s h < (s.portPolicy h).ceiling) &&
    ((decide (held s h < (s.portPolicy h).floor) && decide (unusedAll s ≤ freeTags s)) ||
      decide (unusedOthers s h + 1 ≤ freeTags s))

/-- The lowest-numbered FREE tag (R7). -/
def lowestFreeTag (s : State) : Option Tag := allTags.find? fun t => (s.tagRec t).isNone

/-! Splitting (3.2) -/

/-- The pieces of a target range from `off` on: cut at every multiple of `mrs`, in address order, as offset and length
(R52). `fuel` bounds the number of pieces. -/
def splitFrom (mrs addr : Nat) : Nat → Nat → Nat → List (Nat × Nat)
  | 0, _, _ => []
  | fuel + 1, off, left =>
    if left = 0 then []
    else
      let n := min left (mrs - (addr + off) % mrs)
      (off, n) :: splitFrom mrs addr fuel (off + n) (left - n)

/-- The subrequests of a request (R52): at most one piece a byte, so the length bounds their number. -/
def split (mrs addr len : Nat) : List (Nat × Nat) := splitFrom mrs addr len 0 len

/-- The subrequest list created at first issue: no tag, no outcome, the poisoned mark clear (R52, R80). -/
def newSubs (mrs : Mrs) (addr : BitVec 40) (len : Nat) : List Sub :=
  (split mrs.bytes addr.toNat len).map fun x =>
    { offset := x.1, length := x.2, tag := none, outcome := none, poisoned := false }

/-! Issue heads (R50) -/

/-- A port's issue head: the record, the cut it has or would be given at this evaluation, and whether it is the
record's first subrequest. -/
structure Head where
  slot   : Slot
  record : ReqRec
  target : BitVec 40
  cut    : Cut
  piece  : Sub
  first  : Bool
  deriving DecidableEq, Repr

/-- The issue head of a port (R50): none without a record in the issue order, none behind a FENCE; the first piece of a
QUEUED record, as it would be cut now; the piece at the next-to-issue index of a record in ISSUING. -/
def issueHead (s : State) (h : Port) : Option Head :=
  match (s.port h).firstInOrder with
  | none => none
  | some i =>
    match (s.port h).slot i with
    | none => none
    | some r =>
      if r.kind = .fence then none
      else
        match r.target with
        | none => none
        | some a =>
          match r.cut with
          | some c => (c.subs[c.next]?).map fun x => ⟨i, r, a, c, x, false⟩
          | none =>
            match s.target.effMrs with
            | none => none
            | some m =>
              let subs := newSubs m a r.length
              subs.head?.map fun x => ⟨i, r, a, ⟨m, subs, 0⟩, x, true⟩

/-- The blocks that a READ needs (R55). -/
def ReqRec.blockNeed (r : ReqRec) : Nat := ceilBlocks r.length

/-- The head is the first subrequest of a READ, which must reserve the whole read (R55). -/
def Head.reserves (x : Head) : Bool := x.first && x.record.kind == .read

/-- The data credits a subrequest needs on the target lane: none for a READ (R156). -/
def Head.dataNeed (x : Head) : Nat := if x.record.kind = .read then 0 else ceilBlocks x.piece.length

/-! Evaluations (R49) -/

/-- An issue opportunity is open: the target lane is UP and its transmitter is free to start a TREQ (R49). -/
def opportunityOpen (s : State) : Bool := s.targetUp && s.target.tx == .idle

/-- A QUEUED READ at the head of its port's issue order needs more blocks than its port's block ceiling (R51). -/
def overCeiling (s : State) (h : Port) : Option Slot :=
  match (s.port h).firstInOrder with
  | none => none
  | some i =>
    match (s.port h).slot i with
    | none => none
    | some r =>
      if r.kind = .read ∧ r.stage = .queued ∧ (s.portPolicy h).blockCeiling < r.blockNeed then some i else none

/-- A port's claim leaves the queue (R58). -/
def dropClaim (h : Port) (a : Arbiter) : Arbiter := { a with claims := a.claims.filter fun c => c.1 != h }

/-- One move of R51: the READ goes to READY with BAD_REQUEST, its port's claim leaves the queue, and a FENCE of the port
is tested. -/
def ceilingStep (h : Port) (s : State) : State :=
  match overCeiling s h with
  | none => s
  | some i =>
    let s1 := s.modPort h fun p => fenceTest (enterReady i .badRequest p)
    { s1 with arb := dropClaim h s1.arb }

/-- The moves of R51 at one evaluation: the port's next record becomes its head and is examined in the same evaluation.
A port has at most sixteen records. -/
def ceilingRetires (s : State) : State := allPorts.foldl (fun acc h => repeated (ceilingStep h) 16 acc) s

/-- A port enters the claim queue (R57): its need, where every condition holds. -/
def claimDue (s : State) (h : Port) : Option Nat :=
  match issueHead s h with
  | none => none
  | some x =>
    let need := x.record.blockNeed
    if x.reserves && !(s.arb.claims.any fun c => c.1 == h) && s.arb.reshape == .idle &&
        decide ((s.port h).reserved + need ≤ (s.portPolicy h).blockCeiling) &&
        decide ((freeBlocks s).length < need) then some need else none

/-- The order in which the round-robin tries the ports: the pointer port, then the next three, modulo 4 (R57, R65). -/
def roundRobin (p : Port) : List Port := [p, p + 1, p + 2, p + 3]

/-- The claims due at an evaluation, entered at the tail in round-robin order (R57). -/
def enterClaims (s : State) : State :=
  let due := (roundRobin s.arb.pointer).filterMap fun h => (claimDue s h).map fun n => (h, n)
  { s with arb := { s.arb with claims := s.arb.claims ++ due } }

/-- The block conditions of a reservation of `n` blocks for port `h` (R58). -/
def blocksPass (s : State) (h : Port) (n : Nat) : Bool :=
  decide ((s.port h).reserved + n ≤ (s.portPolicy h).blockCeiling) && decide (n ≤ (freeBlocks s).length) &&
    (match s.arb.claims with
     | [] => true
     | c :: _ => c.1 == h || decide (c.2 + n ≤ (freeBlocks s).length))

/-- Every condition of eligibility but the data-credit count (R59). -/
def eligibleButData (s : State) (h : Port) (x : Head) : Bool :=
  (s.port h).isActive && decide (1 ≤ s.target.heldHdr) &&
    (x.record.kind == .post || tagTest s h) &&
    (!x.reserves || blocksPass s h x.record.blockNeed) &&
    (!x.first || s.arb.reshape == .idle) &&
    (x.record.kind == .read || s.arb.dataHold.isNone || s.arb.dataHold == some (.port h))

/-- The target lane holds the data credits the head needs (R59). -/
def dataPresent (s : State) (x : Head) : Bool := decide (x.dataNeed ≤ s.target.heldData)

/-- The head of a port, where it is eligible (R59). -/
def eligibleHead (s : State) (h : Port) : Option Head :=
  match issueHead s h with
  | none => none
  | some x => if eligibleButData s h x && dataPresent s x then some x else none

/-- The port's head waits only on data credits (R59). -/
def portWaitsOnData (s : State) (h : Port) : Bool :=
  match issueHead s h with
  | none => false
  | some x => eligibleButData s h x && !dataPresent s x

/-- The data credits a re-issue needs: none for a READ (R62). -/
def TagRec.dataNeed (r : TagRec) : Nat :=
  match r.kind with
  | .read => 0
  | .write => ceilBlocks r.length

/-- Every condition on the retry queue's head but the data-credit count (R62). -/
def retryButData (s : State) (t : Tag) (r : TagRec) : Bool :=
  decide (1 ≤ s.target.heldHdr) &&
    (r.kind == .read || s.arb.dataHold.isNone || s.arb.dataHold == some (.tag t))

/-- The deadline of a tag in BACKOFF. -/
def TagRec.backoffDeadline (r : TagRec) : Option Tick :=
  match r.phase with
  | .backoff d _ => some d
  | _ => none

/-- The retry queue's head, a tag in BACKOFF, with its record and its deadline (R61). -/
def retryHead (s : State) : Option (Tag × TagRec × Tick) :=
  match s.arb.retryQ.head? with
  | none => none
  | some t =>
    match s.tagRec t with
    | none => none
    | some r => r.backoffDeadline.map fun d => (t, r, d)

/-- The retry queue's head, where it is eligible (R62). -/
def eligibleRetry (s : State) : Option (Tag × TagRec × Tick) :=
  match retryHead s with
  | none => none
  | some (t, r, d) => if retryButData s t r && decide (r.dataNeed ≤ s.target.heldData) then some (t, r, d) else none

/-- The party that becomes holder at an evaluation at which no hold stands: the retry head first, then the pointer port,
where it waits only on data credits (R63). -/
def holdDue (s : State) : Option Holder :=
  if s.arb.dataHold.isSome then none
  else
    match retryHead s with
    | some (t, r, _) =>
      if retryButData s t r && !decide (r.dataNeed ≤ s.target.heldData) then some (.tag t)
      else if portWaitsOnData s s.arb.pointer then some (.port s.arb.pointer) else none
    | none => if portWaitsOnData s s.arb.pointer then some (.port s.arb.pointer) else none

/-- Settle the data-credit hold (R63). -/
def settleHold (s : State) : State :=
  match holdDue s with
  | none => s
  | some x => { s with arb := { s.arb with dataHold := some x } }

/-- An evaluation up to its grant: the moves of R51, the claims due, the data-credit hold (R49). -/
def evaluate (s : State) : State := settleHold (enterClaims (ceilingRetires s))

/-- The port that the round-robin grants, with its head (R65). -/
def selectPort (s : State) : Option (Port × Head) :=
  (roundRobin s.arb.pointer).findSome? fun h => (eligibleHead s h).map fun x => (h, x)

/-! Grants -/

/-- The pointer and burst count after a grant to port `h` of weight `w` (R65). -/
def advancePointer (h : Port) (w : Nat) (a : Arbiter) : Arbiter :=
  let b := if h = a.pointer then a.burst + 1 else 1
  if w ≤ b then { a with pointer := h + 1, burst := 0 } else { a with pointer := h, burst := b }

/-- The tag record of a first issue (R7, R100). For a WRITE `remaining` has no meaning. -/
def newTag (s : State) (h : Port) (x : Head) (k : TagKind) : TagRec :=
  { port := h, session := (s.port h).session, slot := x.slot, sub := x.cut.next, kind := k,
    addr := x.target + BitVec.ofNat 40 x.piece.offset, length := x.piece.length, remaining := x.piece.length,
    retries := 0, orphaned := false,
    phase := .issued (after s.timebase (s.portPolicy h).timeouts[x.record.cls.toNat]) }

/-- The kind of tag a request kind takes: none for a POST (R39). -/
def ReqKind.tagKind : ReqKind → Option TagKind
  | .read => some .read
  | .write => some .write
  | .post => none
  | .fence => none

/-- The record after its head has been granted (R52, R53, R55): the list and the blocks written at first issue, the tag
in its entry, the index advanced, and the stage moved. -/
def grantedRecord (x : Head) (tag : Option Tag) (blocks : List Block) : ReqRec :=
  let subs := x.cut.subs.modify x.cut.next fun y => { y with tag := tag }
  { x.record with
    cut := some { x.cut with subs := subs, next := x.cut.next + 1 },
    blocks := if x.reserves then blocks else x.record.blocks,
    stage := if x.cut.next + 1 < subs.length then .issuing else .awaiting }

/-- The grant sends the last subrequest of the record (R53). -/
def Head.last (x : Head) : Bool := decide (x.cut.subs.length ≤ x.cut.next + 1)

/-- The slot after a grant: VACANT after the last subrequest of a POST, whose credits are handed back (R39, R53). -/
def grantSlot (x : Head) (tag : Option Tag) (blocks : List Block) (p : PortState) : PortState :=
  if x.record.kind = .post ∧ x.last then vacate x.slot p
  else p.setSlot x.slot (some (grantedRecord x tag blocks))

/-- The bytes of a record's write staging blocks at an offset (R28, R60). -/
def stagedData (p : PortState) (r : ReqRec) (off n : Nat) : List Byte :=
  loadBytes (r.staging.map (·.val)) p.staging off n

/-- The TREQ of a subrequest (R60, R157). -/
def buildTreq (s : State) (h : Port) (x : Head) (tag : Option Tag) : Treq :=
  { kind := x.record.kind, tag := tag, addr := x.target + BitVec.ofNat 40 x.piece.offset, length := x.piece.length,
    data := if x.record.kind = .read then [] else stagedData (s.port h) x.record x.piece.offset x.piece.length }

/-- Target credits fall at a grant, and the TREQ starts (R60, R156). -/
def spend (data : Nat) (t : Treq) (l : TargetLane) : TargetLane :=
  { l with heldHdr := l.heldHdr - 1, heldData := l.heldData - data, tx := .treq t }

/-- The grant of a port's issue head, with the tag it takes: one event (R60). -/
def grantWith (h : Port) (x : Head) (tag : Option Tag) (s : State) : State :=
  let blocks := (freeBlocks s).take x.record.blockNeed
  let treq := buildTreq s h x tag
  let s1 := match tag, x.record.kind.tagKind with
    | some t, some k => s.setTag t (some (newTag s h x k))
    | _, _ => s
  let s2 := s1.modPort h fun p => fenceTest (grantSlot x tag blocks p)
  let a := advancePointer h (s.portPolicy h).weight (endPortHold h s2.arb)
  drainTest
    { s2 with arb := if x.reserves then dropClaim h a else a, target := spend x.dataNeed treq s2.target }

/-- The grant of a port's issue head: a READ or WRITE takes the lowest-numbered FREE tag, a POST none (R7, R39, R60). -/
def grantPort (h : Port) (x : Head) (s : State) : State :=
  grantWith h x (if x.record.kind = .post then none else lowestFreeTag s) s

/-- The subrequest of a tag, in the request record that the tag names. -/
def entryOf (s : State) (r : TagRec) : Option (ReqRec × Sub) :=
  match (s.port r.port).slot r.slot with
  | none => none
  | some q =>
    match q.cut with
    | none => none
    | some c => (c.subs[r.sub]?).map fun x => (q, x)

/-- The data of a re-issued WRITE, read again from staging (R62). -/
def retryData (s : State) (r : TagRec) : List Byte :=
  match r.kind, entryOf s r with
  | .write, some (q, x) => stagedData (s.port r.port) q x.offset r.length
  | _, _ => []

/-- The grant of the retry queue's head (R7, R62): BACKOFF to ISSUED with the same deadline and retry count, the same
TREQ, the pointer and burst count unchanged. -/
def grantRetry (t : Tag) (r : TagRec) (deadline : Tick) (s : State) : State :=
  let treq : Treq :=
    { kind := (match r.kind with | .read => .read | .write => .write), tag := some t, addr := r.addr,
      length := r.length, data := retryData s r }
  let s1 := s.setTag t (some { r with phase := .issued deadline })
  { s1 with arb := leaveRetryQueue t s1.arb, target := spend r.dataNeed treq s1.target }

/-- At an open opportunity, an evaluation and what follows it; else nothing is evaluated (R49). -/
def atOpportunity (f : State → State) (s : State) : State := if opportunityOpen s then f s else s

/-- The evaluation at which the retry head is considered first and, if it does not go, the round-robin grants a port
(R62, R65). -/
def issueGrantStep (s : State) : State :=
  let s1 := evaluate s
  match eligibleRetry s1 with
  | some _ => s1
  | none =>
    match selectPort s1 with
    | some (h, x) => grantPort h x s1
    | none => s1

/-- The evaluation at which the retry head is granted (R62). -/
def retryGrantStep (s : State) : State :=
  let s1 := evaluate s
  match eligibleRetry s1 with
  | some (t, r, d) => grantRetry t r d s1
  | none => s1

/-- ISSUE_GRANT: an evaluation that grants a port's issue head (R49, R60, R65). -/
def execIssueGrant (s : State) : Host.Outcome State Fault Refusal :=
  takes (fun s => reportAll (atOpportunity issueGrantStep s)) s

/-- RETRY_GRANT: an evaluation that grants the retry queue's head (R49, R62). -/
def execRetryGrant (s : State) : Host.Outcome State Fault Refusal :=
  takes (fun s => reportAll (atOpportunity retryGrantStep s)) s

/-- CLAIM_ENTRY: an evaluation up to its claim entries (R49, R57). -/
def execClaimEntry (s : State) : Host.Outcome State Fault Refusal :=
  takes (fun s => reportAll (atOpportunity (fun s => enterClaims (ceilingRetires s)) s)) s

/-- DATA_CREDIT_HOLD: an evaluation up to the settling of the hold (R49, R63). -/
def execDataCreditHold (s : State) : Host.Outcome State Fault Refusal :=
  takes (fun s => reportAll (atOpportunity evaluate s)) s

/-- READ_CEILING_RETIRE: the moves of R51 at an evaluation. -/
def execReadCeilingRetire (s : State) : Host.Outcome State Fault Refusal :=
  takes (fun s => reportAll (atOpportunity ceilingRetires s)) s

/-! Reshape commands and rows (3.9) -/

/-- The holder of the hold is a port whose head is a first subrequest (R64, R66). -/
def holdsForFirst (s : State) : Bool :=
  match s.arb.dataHold with
  | some (.port h) => match issueHead s h with | some x => x.first | none => false
  | _ => false

/-- A RESHAPE taken in IDLE starts the drain, which completes at once where its condition holds (R66). -/
def startDrain (size : Mrs) (s : State) : State :=
  drainTest
    { s with arb := { s.arb with reshape := .draining size s.timebase s.policy.global.reshapeLimit,
                                 dataHold := if holdsForFirst s then none else s.arb.dataHold } }

/-- The drain limit is reached: the timebase minus the start tick, modulo 2^32, is at or above it (R69). -/
def drainLimitReached (now start : Tick) (limit : Nat) : Bool := decide (limit ≤ (now - start).toNat)

/-- The drain limit expiry: ABORTED, IDLE, RESHAPE_ABORTED logged and RESHAPE_END raised (R69). -/
def takeDrainLimit (s : State) : State :=
  match s.arb.reshape with
  | .idle => s
  | .draining size start limit =>
    if drainLimitReached s.timebase start limit then
      raiseEvent eventReshapeEnd
        (appendLog { kind := .reshapeAborted, detail := some size.bytes }
          { s with arb := { s.arb with outcome := .aborted, reshape := .idle } })
    else s

def execDrainLimitExpiry (s : State) : Host.Outcome State Fault Refusal := takes takeDrainLimit s

/-- DRAIN_COMPLETE: the drain test of R66, taken on its own (log 8). -/
def execDrainComplete (s : State) : Host.Outcome State Fault Refusal := takes drainTest s

end Sys2Proof.Machine
end

