-- ==== Sys2Proof/Machine/Requests.lean ====
section
/-! DEFINITION. Intake: the checks of a REQUEST, the window lookup, acceptance, rejection and the drop of a POST (02), and
the test of a waiting FENCE as a row of its own. -/

namespace Sys2Proof.Machine

/-- A request lies wholly in a window (R35). -/
def Window.contains (w : Window) (addr len : Nat) : Bool :=
  decide (w.base.toNat ≤ addr) && decide (addr + len ≤ w.limit.toNat)

/-- The window that decides a request: the lowest-numbered enabled one in which it lies wholly (R35). -/
def decidingWindow (s : State) (h : Port) (addr len : Nat) : Option Window :=
  ((List.finRange 4).map (s.window h)).find? fun w => w.enabled && w.contains addr len

/-- The rights that a request needs: READ for a READ, WRITE for a WRITE or POST (R35). -/
def Window.permits (w : Window) (k : ReqKind) : Bool :=
  match k with
  | .read => w.canRead
  | .write => w.canWrite
  | .post => w.canWrite
  | .fence => false

/-- Check 6: the translated target address, or none where the check fails with DENIED (R35). -/
def translate (s : State) (h : Port) (k : ReqKind) (addr len : Nat) : Option (BitVec 40) :=
  match decidingWindow s h addr len with
  | none => none
  | some w =>
    if w.permits k then
      let t := w.offset.toNat + addr - w.base.toNat
      if t + len ≤ 2 ^ 40 then some (BitVec.ofNat 40 t) else none
    else none

/-- Check 2, by its conditions in order: the code of the first to fail, as the detail of MALFORMED_REQUEST names it, or
the kind where all hold (R31, R165). -/
def wellFormedKind (kind : BitVec 8) (len dataLen : Nat) : Nat ⊕ ReqKind :=
  match ReqKind.ofCode kind with
  | none => .inl 1
  | some .write => if dataLen = len then .inr .write else .inl 2
  | some .post => if dataLen = len then .inr .post else .inl 2
  | some .read => if dataLen = 0 then .inr .read else .inl 2
  | some .fence => if dataLen = 0 then (if len = 0 then .inr .fence else .inl 3) else .inl 2

/-- Checks 4 and 5 of a READ, WRITE or POST: the status of the first to fail (R33, R34). -/
def limitStatus (s : State) (h : Port) (k : ReqKind) (len : Nat) : Option HostStatus :=
  let pol := s.portPolicy h
  if pol.behaviour = .fail ∧ !s.targetUp then some .unavailable
  else if len = 0 ∨ Config.maxRequest < len ∨ (k = .read ∧ pol.blockCeiling < ceilBlocks len) then some .badRequest
  else none

/-- Checks 4 to 6 of a READ, WRITE or POST: the status of the first to fail, or the translated target address (R33 to
R35). -/
def accessCheck (s : State) (h : Port) (k : ReqKind) (addr len : Nat) : HostStatus ⊕ BitVec 40 :=
  match limitStatus s h k len with
  | some st => .inl st
  | none =>
    match translate s h k addr len with
    | some t => .inr t
    | none => .inl .denied

/-- The record that Intake writes when a slot is taken, before checks 3 to 6 are applied (R25, R36). -/
def newRecord (p : PortState) (k : ReqKind) (id : HostId) (cls : BitVec 2) (len : Nat) (blocks : List StageBlock) :
    ReqRec :=
  { stage := .queued, kind := k, hostId := if k = .post then none else some id, mapped := false, cls := cls,
    target := none, length := len, seq := p.acceptSeq, cut := none, firstFailure := none, firstPoisoned := none,
    blocks := [], staging := blocks, status := none, rejected := false }

/-- A REQUEST passes the credit check: its credits are consumed, its data is placed in staging, and the acceptance
sequence is spent (R26, R28, R30). -/
def consume (blocks : List StageBlock) (data : List Byte) (p : PortState) : PortState :=
  { p with reqHdr := p.reqHdr - 1, reqData := p.reqData - blocks.length, acceptSeq := p.acceptSeq + 1,
           staging := storeBytes (blocks.map (·.val)) 0 data p.staging }

/-- A request fails check 1: nothing is taken; CREDIT_VIOLATION is raised and logged (R30, R165). -/
def creditViolation (h : Port) (s : State) : State :=
  appendLog { kind := .creditViolation, port := some h, session := some (s.port h).session,
              detail := some (if (s.port h).reqHdr = 0 then 1 else 2) }
    (s.modPort h (raiseNotice noticeCreditViolation))

/-- A request fails check 2: the slot returns to VACANT at once and the credits are handed back; MALFORMED_REQUEST is
raised and logged (R31). -/
def malformedRequest (h : Port) (detail blocks : Nat) (s : State) : State :=
  appendLog { kind := .malformedRequest, port := some h, session := some (s.port h).session, detail := some detail }
    (s.modPort h fun p => raiseNotice noticeMalformedRequest (giveBack 1 blocks p))

/-- A request is rejected at checks 3 to 6 into READY, from the slot it took (R32, R37). -/
def rejectRequest (h : Port) (i : Slot) (r : ReqRec) (st : HostStatus) (s : State) : State :=
  s.modPort h fun p => enterReady i st (p.setSlot i (some { r with rejected := true }))

/-- A POST is dropped at intake: its slot and staging return as credit, POSTED_REJECTED is raised and logged with the
host address, and the fence-fault flag is set (R38). -/
def dropAtIntake (h : Port) (r : ReqRec) (addr : BitVec 48) (st : HostStatus) (s : State) : State :=
  appendLog { kind := .postedRejected, port := some h, session := some (s.port h).session, cls := some r.cls,
              length := some r.length, address := some (.host addr), detail := some st.code }
    (s.modPort h fun p =>
      { raiseNotice noticePostedRejected (giveBack 1 r.staging.length p) with fenceFault := true })

/-- Checks 3 to 6 of a well-formed request in the slot it took (R32 to R38), and the FENCE test at acceptance (R41). -/
def admitRequest (h : Port) (i : Slot) (r : ReqRec) (id : HostId) (addr : BitVec 48) (s : State) : State :=
  if r.kind ≠ .post ∧ (s.port h).idMapped id then rejectRequest h i r .idInUse s
  else
    let r1 := { r with mapped := decide (r.kind ≠ .post) }
    if r.kind = .fence then s.modPort h fun p => fenceTest (p.setSlot i (some r1))
    else
      match accessCheck s h r.kind addr.toNat r.length with
      | .inr t => s.modPort h fun p => p.setSlot i (some { r1 with target := some t })
      | .inl st => if r.kind = .post then dropAtIntake h r1 addr st s else rejectRequest h i r1 st s

/-- Check 1: a header credit, and a data credit for each block of the data carried (R30). -/
def creditCheck (p : PortState) (dataLen : Nat) : Bool :=
  decide (1 ≤ p.reqHdr) && decide (ceilBlocks dataLen ≤ p.reqData)

/-- A REQUEST that passed check 1, with the slot and the staging blocks it takes (R25, R28). -/
def intake (h : Port) (kind : BitVec 8) (id : HostId) (cls : BitVec 2) (addr : BitVec 48) (len : Nat)
    (data : List Byte) (i : Slot) (blocks : List StageBlock) (s : State) : State :=
  let s1 := s.modPort h (consume blocks data)
  match wellFormedKind kind len data.length with
  | .inl d => malformedRequest h d blocks.length s1
  | .inr k => admitRequest h i (newRecord (s.port h) k id cls len blocks) id addr s1

/-- REQUEST: taken in ACTIVE, discarded in every other state (R116); the six checks of 2.4. -/
def execRequest (h : Port) (kind : BitVec 8) (id : HostId) (cls : BitVec 2) (addr : BitVec 48) (len : BitVec 16)
    (data : List Byte) (s : State) : Host.Outcome State Fault Refusal :=
  if s.inHold || !(s.port h).isActive then .next s
  else if !creditCheck (s.port h) data.length then .next (reportAll (creditViolation h s))
  else
    match (s.port h).vacantSlot with
    | none => .fault .noVacantSlot
    | some i =>
      let blocks := (s.port h).freeStaging.take (ceilBlocks data.length)
      if blocks.length < ceilBlocks data.length then .fault .noStagingBlock
      else .next (reportAll (intake h kind id cls addr len.toNat data i blocks s))

/-- FENCE_READY: the FENCE test of R41, taken on its own. In a state that the events of the part have left, each has made
the test already (log 8). -/
def execFenceReady (h : Port) (s : State) : Host.Outcome State Fault Refusal :=
  takes (fun s => reportAll (s.modPort h fenceTest)) s

end Sys2Proof.Machine
end

