-- ==== Sys2Proof/Machine/TargetLane.lean ====
section
/-! DEFINITION. The Target Lane Interface: training, holdoff, credits, target lane loss and the end of a TREQ (08). -/

namespace Sys2Proof.Machine

/-- A packet in transmission is cut off partway (R151, R154). -/
def cutTarget (l : TargetLane) : TargetLane :=
  match l.tx with
  | .idle => l
  | k => { l with tx := .idle, lastCut := some k }

/-- The lane enters TRAINING: a TRAIN is sent and the train end tick is set 64 ticks on (R151). -/
def enterTraining (now : Tick) (l : TargetLane) : TargetLane :=
  { l with link := .training (now + Config.trainTicks), tx := .train }

/-- The lane enters HOLDOFF: the transmitter goes off, and credits held and advertised totals become 0 (R154). -/
def enterTargetHoldoff (now : Tick) (cause : DownCause) (l : TargetLane) : TargetLane :=
  { cutTarget l with link := .holdoff (now + Config.holdoffTicks), lastDown := cause, totalHdr := 0, totalData := 0,
                     heldHdr := 0, heldData := 0 }

/-- Rewrite the target lane. -/
def State.modTarget (s : State) (f : TargetLane → TargetLane) : State := { s with target := f s.target }

/-! Posts dropped after acceptance, and the FAIL walk (R40, R159) -/

/-- The offset of the subrequest at the next-to-issue index; 0 before first issue. -/
def nextOffset (r : ReqRec) : Nat :=
  match r.cut with
  | some c => match c.subs[c.next]? with | some x => x.offset | none => 0
  | none => 0

/-- The address of a POST's first piece not yet sent: the translated target address plus the offset of the subrequest at
its next-to-issue index (R165). -/
def nextPieceAddr (r : ReqRec) : BitVec 40 :=
  r.target.getD 0 + BitVec.ofNat 40 (nextOffset r)

/-- A POST is dropped after acceptance: POSTED_REJECTED is raised and logged with detail UNAVAILABLE, the fence-fault flag
is set, and its slot, staging and credits return (R40, R152). -/
def dropPost (h : Port) (i : Slot) (s : State) : State :=
  match (s.port h).slot i with
  | none => s
  | some r =>
    let s1 := appendLog
      { kind := .postedRejected, port := some h, session := some (s.port h).session, cls := some r.cls,
        length := some r.length, address := some (.target (nextPieceAddr r)),
        detail := some HostStatus.unavailable.code } s
    s1.modPort h fun p => { raiseNotice noticePostedRejected (vacate i p) with fenceFault := true }

/-- One record of the FAIL walk (R159): a QUEUED READ or WRITE goes to READY with UNAVAILABLE, a QUEUED POST is dropped,
every other record is left. -/
def failRecord (h : Port) (i : Slot) (s : State) : State :=
  match (s.port h).slot i with
  | none => s
  | some r =>
    if r.stage = .queued then
      match r.kind with
      | .read =>
        let s1 := s.modPort h (enterReady i .unavailable)
        { s1 with arb := dropClaim h s1.arb }
      | .write => s.modPort h (enterReady i .unavailable)
      | .post => dropPost h i s
      | .fence => s
    else s

/-- The records of a FAIL port in acceptance order, the FENCE tested at the point in the walk where its conditions become
true (R159). -/
def failWalk (h : Port) (s : State) : State :=
  (s.port h).acceptanceOrder.foldl (fun acc i => (failRecord h i acc).modPort h fenceTest) s

/-- Step 4 of a target lane loss: each port by its own target-down behaviour as it stands at the loss (R159). -/
def failPorts (s : State) : State :=
  allPorts.foldl (fun acc h => if (acc.portPolicy h).behaviour = .fail then failWalk h acc else acc) s

/-- Step 3 of a target lane loss: every live subrequest retires LINK_DOWN, every tag becomes FREE, the retry queue is
emptied, the data-credit hold ends, and a drain in progress completes (R22, R70, R72, R158). -/
def releaseAll (s : State) : State :=
  let s1 := retireAll .linkDown (liveEntries s) s
  let s2 := { s1 with tags := Vector.replicate 128 none, arb := { s1.arb with retryQ := [], dataHold := none } }
  match s2.arb.reshape with
  | .idle => s2
  | .draining size _ _ => completeDrain size s2

/-- A target lane loss, one event in the order of R158. -/
def targetLoss (cause : DownCause) (s : State) : State :=
  let s1 := s.modTarget (enterTargetHoldoff s.timebase cause)
  let s2 := failPorts (releaseAll s1)
  appendLog { kind := .targetLaneDown, detail := some cause.code } (s2.modPorts (raiseNotice noticeTargetDown))

/-- A training failure that sends the lane to HOLDOFF: no tag, record or queue is touched (R153). -/
def trainingFails (cause : DownCause) (s : State) : State := s.modTarget (enterTargetHoldoff s.timebase cause)

/-! Events of the lane -/

/-- TARGET_CARRIER_DETECT: in DOWN the lane goes to TRAINING (R148); in the reset hold only the level is followed. -/
def detectTarget (s : State) : State :=
  let s1 := s.modTarget fun l => { l with carrier := true }
  if s.target.link = .down then s1.modTarget (enterTraining s.timebase) else s1

def execTargetCarrierDetect (s : State) : Host.Outcome State Fault Refusal :=
  .next (if s.inHold then s.modTarget fun l => { l with carrier := true } else detectTarget s)

/-- TARGET_CARRIER_LOSS by the link state (R148, R153, R158). -/
def loseTarget (s : State) : State :=
  let s1 := s.modTarget fun l => { l with carrier := false }
  match s.target.link with
  | .training _ => s1.modTarget fun l => { cutTarget l with link := .down, lastDown := .carrierLoss }
  | .up => targetLoss .carrierLoss s1
  | .down => s1
  | .holdoff _ => s1

def execTargetCarrierLoss (s : State) : Host.Outcome State Fault Refusal :=
  .next (if s.inHold then s.modTarget fun l => { l with carrier := false } else reportAll (loseTarget s))

/-- TARGET_CHECK_FAILURE and TARGET_RESET by the link state (R149, R153, R162). -/
def downWith (cause : DownCause) (s : State) : State :=
  match s.target.link with
  | .training _ => trainingFails cause s
  | .up => targetLoss cause s
  | .down => s
  | .holdoff _ => s

def execTargetCheckFailure (s : State) : Host.Outcome State Fault Refusal :=
  takes (fun s => reportAll (downWith .protocol s)) s

/-! TRAIN_ACK (R152) -/

/-- The four checks of a TRAIN_ACK: the target maximum request size where all pass (R152). -/
def trainAckSize (hdr data size : Nat) : Option Mrs :=
  match Mrs.ofBytes size with
  | none => none
  | some m =>
    if 1 ≤ hdr ∧ hdr ≤ 64 ∧ 1 ≤ data ∧ data ≤ 256 ∧ m.bytes / Config.blockBytes ≤ data then some m else none

/-- A record left in ISSUING whose MRS used is greater than the new target maximum (R152). -/
def isStranded (m : Mrs) (r : ReqRec) : Bool :=
  r.stage == .issuing && (match r.cut with | some c => decide (m.bytes < c.mrs.bytes) | none => false)

/-- Step 3 of R152 for one record: a READ or WRITE takes a first failure LINK_DOWN at its next piece, is cancelled, and
enters READY; a POST is dropped. -/
def endStranded (m : Mrs) (h : Port) (i : Slot) (s : State) : State :=
  match (s.port h).slot i with
  | none => s
  | some r =>
    if isStranded m r then
      if r.kind = .post then (dropPost h i s).modPort h fenceTest
      else
        s.modPort h fun p =>
          fenceTest (readyTest (s.portPolicy h).errorMap i
            (p.setSlot i (some (recordFailure .linkDown (nextOffset r) r))))
    else s

/-- Step 3 of R152: the ports in ascending order, the records of a port in acceptance order (R166). -/
def endAllStranded (m : Mrs) (s : State) : State :=
  allPorts.foldl (fun acc h => (acc.port h).acceptanceOrder.foldl (fun a i => endStranded m h i a) acc) s

/-- Steps 1 and 2 of R152: totals, credits, target maximum and effective MRS. -/
def recordTraining (hdr data : Nat) (m configured : Mrs) (l : TargetLane) : TargetLane :=
  { l with totalHdr := hdr, totalData := data, heldHdr := hdr, heldData := data, maxReq := some m,
           effMrs := some (configured.smaller m) }

/-- A TRAIN_ACK that passes its checks brings the lane UP, in the order of R152; a drain is tested, since a record may have
left ISSUING (R66, R88; log 22). -/
def bringUp (hdr data : Nat) (m : Mrs) (s : State) : State :=
  let s1 := s.modTarget (recordTraining hdr data m s.arb.configuredMrs)
  let s2 := endAllStranded m s1
  let s3 := s2.modPorts (raiseNotice noticeTargetUp)
  drainTest (s3.modTarget fun l => { l with link := .up, tx := .idle })

/-- TRAIN_ACK: taken in TRAINING, discarded in UP and HOLDOFF; none arrives in DOWN (R149, R152, R153). -/
def takeTrainAck (hdr data size : Nat) (s : State) : State :=
  match s.target.link with
  | .training _ =>
    match trainAckSize hdr data size with
    | some m => bringUp hdr data m s
    | none => trainingFails .protocol s
  | .up => s
  | .down => s
  | .holdoff _ => s

def execTrainAck (hdr : BitVec 8) (data size : BitVec 16) (s : State) : Host.Outcome State Fault Refusal :=
  takes (fun s => reportAll (takeTrainAck hdr.toNat data.toNat size.toNat s)) s

/-- TRAIN_END_TICK_EXPIRY: another TRAIN is sent and the train end tick is set 64 ticks on (R151). -/
def takeTrainEnd (s : State) : State :=
  match s.target.link with
  | .training e =>
    if reached s.timebase e then
      s.modTarget fun l => { l with link := .training (s.timebase + Config.trainTicks), tx := .train }
    else s
  | _ => s

def execTrainEndTickExpiry (s : State) : Host.Outcome State Fault Refusal := takes takeTrainEnd s

/-- TARGET_HOLDOFF_END: the lane enters TRAINING if the carrier is present, and DOWN otherwise (R154). -/
def endTargetHoldoff (s : State) : State :=
  match s.target.link with
  | .holdoff e =>
    if reached s.timebase e then
      (if s.target.carrier then s.modTarget (enterTraining s.timebase)
       else s.modTarget fun l => { l with link := .down })
    else s
  | _ => s

def execTargetHoldoffEnd (s : State) : Host.Outcome State Fault Refusal := takes endTargetHoldoff s

/-- TCREDIT in UP: both counts are added where both sums fit their totals; else a PROTOCOL fault (R156). -/
def takeTcredit (hdr data : Nat) (s : State) : State :=
  if s.target.heldHdr + hdr ≤ s.target.totalHdr ∧ s.target.heldData + data ≤ s.target.totalData then
    s.modTarget fun l => { l with heldHdr := l.heldHdr + hdr, heldData := l.heldData + data }
  else targetLoss .protocol s

def execTcredit (hdr : BitVec 8) (data : BitVec 16) (s : State) : Host.Outcome State Fault Refusal :=
  takes (fun s => if s.targetUp then reportAll (takeTcredit hdr.toNat data.toNat s) else s) s

/-- TARGET_UNUSABLE_PACKET: discarded with no effect on any state (R193). -/
def execTargetUnusablePacket (_bytes : List Byte) (s : State) : Host.Outcome State Fault Refusal :=
  takes (fun s => s) s

/-- TREQ_TRANSMISSION_END: the transmitter is free, and an issue opportunity opens while the lane is UP; no record or tag
changes (R157). -/
def endTreq (l : TargetLane) : TargetLane :=
  match l.tx with
  | .treq _ => { l with tx := .idle }
  | _ => l

def execTreqTransmissionEnd (s : State) : Host.Outcome State Fault Refusal := takes (fun s => s.modTarget endTreq) s

end Sys2Proof.Machine
end

