-- ==== Sys2Proof/Machine/Resets.lean ====
section
/-! DEFINITION. The part resets: the reset hold, the power-on and pin resets, and SOFT_RESET (10.5). -/

namespace Sys2Proof.Machine

/-- A port at a part reset: its reset values, its lane in DOWN and on to WAITING where the host drives carrier (R115,
R132). -/
def freshPort (cut : Option (CutForm × HostPacket)) (p : PortState) : PortState :=
  { PortState.reset with carrier := p.carrier, link := if p.carrier then .waiting else .down, lastCut := cut }

/-- The target lane at a part reset, the timebase at 0: TRAINING with its first TRAIN if the fabric drives carrier, DOWN
otherwise (R148, R163). -/
def freshTarget (cut : Option TargetTx) (l : TargetLane) : TargetLane :=
  let fresh := { TargetLane.reset with carrier := l.carrier, lastCut := cut }
  if l.carrier then enterTraining 0 fresh else fresh

/-- Every block enters its part reset values: the carriers are inputs and keep their levels; the waiting commands are
outside the part (R189). -/
def resetBlocks (cause : ResetCause) (log : FaultLog) (f : PortState → PortState) (g : TargetLane → TargetLane)
    (s : State) : State :=
  { State.reset with
    pending := s.pending, ports := mapTable (fun _ => f) s.ports, target := g s.target, log := log,
    mgmt := { State.reset.mgmt with resetCause := cause } }

/-- A power-on or pin reset, taken as one event when the hold ends (R189, R176). -/
def hardReset (cause : ResetCause) (s : State) : State :=
  resetBlocks cause State.reset.log (freshPort none) (freshTarget none) s

/-- At SOFT_RESET a packet being sent is closed at once with a check sequence that cannot pass (R132). R132 says so of a lane
that was ACTIVE; that an ATTACH_NAK being sent by a WAITING lane ends in the same way is DESIGN CHOICE, log 14. -/
def softPort (p : PortState) : PortState := freshPort (cutOff .closed p).lastCut p

/-- At SOFT_RESET a TREQ or TRAIN being sent on the target lane is dropped, cut short (R148, R157). The form in which it ends
is DESIGN CHOICE, log 32: it is cut off partway, as R154 says of the entry to HOLDOFF. -/
def softTarget (l : TargetLane) : TargetLane := freshTarget (cutTarget l).lastCut l

/-- SOFT_RESET: the log's records and next sequence number are kept and the view is emptied, the reset cause is SOFT, and
COMMAND_RESULT is written last (R176, R190). -/
def commandSoftReset (s : State) : State :=
  setResult Command.softReset.code .done (resetBlocks .soft { s.log with view := none } softPort softTarget s)

/-- SOFT_RESET (R190). -/
def execSoftReset (s : State) : Host.Outcome State Fault Refusal := takes commandSoftReset s

/-- RESET_HOLD_BEGIN: the part is held; its lane transmitters go off, so packets stop partway, and an SPI frame in
progress is abandoned (R132, R189). A hold that has begun keeps its cause (R189). -/
def beginHold (c : HoldCause) (s : State) : State :=
  { (s.modPorts (cutOff .stopped)).modTarget cutTarget with
    hold := some c, mgmt := { s.mgmt with frame := .idle } }

def execResetHoldBegin (c : HoldCause) (s : State) : Host.Outcome State Fault Refusal := takes (beginHold c) s

/-- POWER_ON_RESET: the end of a supply or clock hold. A hold that RESET_N began ends in a pin reset, not in this one
(R189; log 17). -/
def execPowerOnReset (s : State) : Host.Outcome State Fault Refusal :=
  .next (if s.hold = some .pin then s else hardReset .powerOn s)

/-- PIN_RESET: the release of RESET_N. A hold that the supply or the clock began ends in a power-on reset, not in this one
(R189; log 17). -/
def execPinReset (s : State) : Host.Outcome State Fault Refusal :=
  .next (if s.hold = some .power then s else hardReset .pin s)

end Sys2Proof.Machine
end

