-- ==== Sys2Proof/Machine/Management.lean ====
section
/-! DEFINITION. The Management Port and the Policy Store: the write rows, the commands, and the tables with their staging
layouts and validation (10, 11.6, 11.8). -/

namespace Sys2Proof.Machine

/-! The staging area (11.8) -/

/-- Staging words with some of them written and every other 0 (R182). -/
def stagingOf (ws : List Nat) : Vector Word 16 :=
  Vector.ofFn fun i => BitVec.ofNat 32 (ws.getD i.val 0)

/-- The error map's seven entries, in the order of word 0x045 (11.8). -/
def ErrorMap.codes (m : ErrorMap) : List Nat :=
  [m.unsupported.code, m.aborted.code, m.poisoned.code, m.timeout.code, m.linkDown.code, m.malformed.code,
    m.retryExhausted.code]

/-- A port record in its places in the staging area (11.8). -/
def stagePort (p : PortPolicy) : Vector Word 16 :=
  stagingOf
    [ place 0 (bit p.enabled) + place 8 p.floor + place 16 p.ceiling,
      place 0 p.blockCeiling + place 16 p.weight,
      place 0 p.timeouts[0] + place 16 p.timeouts[1],
      place 0 p.timeouts[2] + place 16 p.timeouts[3],
      place 0 p.stallWindow + place 16 p.stallAction.code + place 20 (bit (p.behaviour == .fail)),
      (p.errorMap.codes.zipIdx.map fun (c, i) => place (4 * i) c).sum ]

/-- A window record in its places in the staging area (11.8). -/
def stageWindow (w : Window) : Vector Word 16 :=
  stagingOf
    [ place 0 (bit w.enabled) + place 8 (bit w.canRead) + place 9 (bit w.canWrite),
      w.base.toNat % 2 ^ 32, w.base.toNat / 2 ^ 32,
      w.limit.toNat % 2 ^ 32, w.limit.toNat / 2 ^ 32,
      w.offset.toNat % 2 ^ 32, w.offset.toNat / 2 ^ 32 ]

/-- The global record in its places in the staging area (11.8). -/
def stageGlobal (g : GlobalPolicy) : Vector Word 16 :=
  stagingOf [ place 0 g.quarantine + place 16 g.backoff + place 24 g.retryLimit, place 0 g.reshapeLimit ]

/-- The statuses that an error-map entry may name; POISONED_DATA in the POISONED entry alone (R89, R185). -/
def entryAllowed (poisonedEntry : Bool) : HostStatus → Bool
  | .targetError => true
  | .dataError => true
  | .timeout => true
  | .unavailable => true
  | .poisonedData => poisonedEntry
  | _ => false

/-- An error-map entry of a staged word: the status its code names, where the entry allows it (R185, R197). -/
def stagedEntry (w : Word) (lo : Nat) (poisonedEntry : Bool) : Option HostStatus :=
  (HostStatus.ofCode (field w lo 4)).filter (entryAllowed poisonedEntry)

/-- The staged error map, where every entry is allowed (R185). -/
def stagedErrorMap (w : Word) : Option ErrorMap := do
  let unsupported ← stagedEntry w 0 false
  let aborted ← stagedEntry w 4 false
  let poisoned ← stagedEntry w 8 true
  let timedOut ← stagedEntry w 12 false
  let linkDown ← stagedEntry w 16 false
  let malformed ← stagedEntry w 20 false
  let retryExhausted ← stagedEntry w 24 false
  return { unsupported, aborted, poisoned, timeout := timedOut, linkDown, malformed, retryExhausted }

/-- Every number of a port record lies in its range, and the ceiling is at or above the floor (R184, R185). -/
def PortPolicy.inRange (p : PortPolicy) : Bool :=
  decide (p.floor ≤ 32) && decide (1 ≤ p.ceiling) && decide (p.ceiling ≤ 128) && decide (p.floor ≤ p.ceiling) &&
    decide (1 ≤ p.blockCeiling) && decide (p.blockCeiling ≤ 256) && decide (1 ≤ p.weight) && decide (p.weight ≤ 8) &&
    p.timeouts.toList.all (fun t => decide (1 ≤ t) && decide (t ≤ 65535)) && decide (p.stallWindow ≤ 4095)

/-- The staging area read as a port record; none where a code names nothing or a value is out of range (R185, R197). -/
def stagedPort (v : Vector Word 16) : Option PortPolicy := do
  let errorMap ← stagedErrorMap v[5]
  let stallAction ← StallAction.ofCode (field v[4] 16 2)
  let p : PortPolicy :=
    { enabled := bitAt v[0] 0, floor := field v[0] 8 6, ceiling := field v[0] 16 8,
      blockCeiling := field v[1] 0 9, weight := field v[1] 16 4,
      timeouts := #v[field v[2] 0 16, field v[2] 16 16, field v[3] 0 16, field v[3] 16 16],
      stallWindow := field v[4] 0 12, stallAction,
      behaviour := if bitAt v[4] 20 then .fail else .hold, errorMap }
  if p.inRange then some p else none

/-- The staged floor plus the floors committed for the other three ports is at most 128 (R185). -/
def floorsFit (s : State) (h : Port) (floor : Nat) : Bool :=
  decide (floor + ((allPorts.filter (· != h)).map fun g => (s.portPolicy g).floor).sum ≤ 128)

/-- The staging area read as a window record: the fields alone, unchecked (R186, R197). -/
def stagedWindow (v : Vector Word 16) : Window :=
  { enabled := bitAt v[0] 0, canRead := bitAt v[0] 8, canWrite := bitAt v[0] 9,
    base := BitVec.ofNat 48 (v[1].toNat + 2 ^ 32 * field v[2] 0 16),
    limit := BitVec.ofNat 49 (v[3].toNat + 2 ^ 32 * field v[4] 0 17),
    offset := BitVec.ofNat 40 (v[5].toNat + 2 ^ 32 * field v[6] 0 8) }

/-- A window record passes validation (R186). -/
def Window.valid (w : Window) : Bool :=
  !w.enabled ||
    (decide (w.base.toNat % 4096 = 0) && decide (w.limit.toNat % 4096 = 0) && decide (w.offset.toNat % 4096 = 0) &&
      decide (w.base.toNat < w.limit.toNat) && decide (w.limit.toNat ≤ 2 ^ 48) && (w.canRead || w.canWrite))

/-- The staging area read as the global record; none where a value is out of range (R187). -/
def stagedGlobal (v : Vector Word 16) : Option GlobalPolicy :=
  let g : GlobalPolicy :=
    { quarantine := field v[0] 0 16, backoff := field v[0] 16 8, retryLimit := field v[0] 24 4,
      reshapeLimit := field v[1] 0 16 }
  if 1 ≤ g.backoff ∧ 1 ≤ g.reshapeLimit then some g else none

/-! Commits (R183 to R188) -/

/-- Replace a port's committed record. -/
def setPortPolicy (h : Port) (p : PortPolicy) (s : State) : State :=
  { s with policy := { s.policy with ports := s.policy.ports.set h.val p } }

/-- Replace a window's committed record. -/
def setWindow (i : Fin 16) (w : Window) (s : State) : State :=
  { s with policy := { s.policy with windows := s.policy.windows.set i.val w } }

/-- Replace the global record. -/
def setGlobal (g : GlobalPolicy) (s : State) : State := { s with policy := { s.policy with global := g } }

/-- Step 2 of a commit: a PORT record that disables its port deals with the port's lane (R188). -/
def disableLane (h : Port) (s : State) : State :=
  match (s.port h).link with
  | .active => portResetTaken h .portDisabled s
  | .fenced => s.modPort h (enterHoldoff s.timebase)
  | .waiting => s
  | .down => s
  | .holdoff _ => s

/-- Step 3 of a commit: POLICY_CHANGED for the record's port, where a field of the record changed (R188). -/
def noticeChange (h : Port) (changed : Bool) (s : State) : State :=
  if changed then s.modPort h (raiseNotice noticePolicyChanged) else s

/-- The port that a window index belongs to (R182). -/
def windowPort (i : Fin 16) : Port := ⟨i.val / 4, by omega⟩

/-- A commit of a PORT record (R185, R188); none where it is refused. -/
def commitPort (h : Port) (s : State) : Option State :=
  match stagedPort s.mgmt.staging with
  | none => none
  | some p =>
    if floorsFit s h p.floor then
      let s1 := setPortPolicy h p s
      let s2 := if p.enabled then s1 else disableLane h s1
      some (noticeChange h (p != s.portPolicy h) s2)
    else none

/-- A commit of a WINDOW record (R186, R188); none where it is refused. -/
def commitWindow (i : Fin 16) (s : State) : Option State :=
  let w := stagedWindow s.mgmt.staging
  if w.valid then some (noticeChange (windowPort i) (w != s.policy.windows[i.val]) (setWindow i w s)) else none

/-- A commit of the GLOBAL record (R187, R188); none where it is refused. -/
def commitGlobal (s : State) : Option State := (stagedGlobal s.mgmt.staging).map fun g => setGlobal g s

/-- The commit of a table's record (R183). -/
def commitTable (t : TableIndex) (s : State) : Option State :=
  match t with
  | .port h => commitPort h s
  | .window i => commitWindow i s
  | .global => commitGlobal s

/-- The staging area that TABLE_FETCH leaves (R182). -/
def fetched (t : TableIndex) (s : State) : Vector Word 16 :=
  match t with
  | .port h => stagePort (s.portPolicy h)
  | .window i => stageWindow s.policy.windows[i.val]
  | .global => stageGlobal s.policy.global

/-! The commands (R180, R181) -/

/-- A command word that is answered INVALID does nothing else (R180). -/
def answerInvalid (code : BitVec 8) (s : State) : State := setResult code .invalid s

def commandPortReset (a : BitVec 8) (s : State) : State :=
  match portOfArg a with
  | none => answerInvalid Command.portReset.code s
  | some h => setResult Command.portReset.code .done (portResetOnLane h s)

def commandTargetReset (s : State) : State :=
  setResult Command.targetReset.code .done (downWith .targetReset s)

/-- RESHAPE: the size is checked before the reshape state (R66, R181). -/
def commandReshape (b : BitVec 16) (s : State) : State :=
  match Mrs.ofBytes b.toNat with
  | none => answerInvalid Command.reshape.code s
  | some size =>
    match s.arb.reshape with
    | .draining _ _ _ => setResult Command.reshape.code .busy s
    | .idle => setResult Command.reshape.code .done (startDrain size s)

def commandTableFetch (a : BitVec 8) (b : BitVec 16) (s : State) : State :=
  match TableIndex.ofArgs a b with
  | none => answerInvalid Command.tableFetch.code s
  | some t =>
    setResult Command.tableFetch.code .done { s with mgmt := { s.mgmt with staging := fetched t s } }

def commandTableCommit (a : BitVec 8) (b : BitVec 16) (s : State) : State :=
  match TableIndex.ofArgs a b with
  | none => answerInvalid Command.tableCommit.code s
  | some t =>
    match commitTable t s with
    | none => answerInvalid Command.tableCommit.code s
    | some s1 => setResult Command.tableCommit.code .done s1

/-- PORT_RESET (R138, R181). -/
def execPortReset (a : BitVec 8) (s : State) : Host.Outcome State Fault Refusal := takes (commandPortReset a) s

/-- TARGET_RESET (R162, R181). -/
def execTargetReset (s : State) : Host.Outcome State Fault Refusal :=
  takes (fun s => reportAll (commandTargetReset s)) s

/-- RESHAPE (R66, R181). -/
def execReshape (b : BitVec 16) (s : State) : Host.Outcome State Fault Refusal := takes (commandReshape b) s

/-- TABLE_FETCH (R182). -/
def execTableFetch (a : BitVec 8) (b : BitVec 16) (s : State) : Host.Outcome State Fault Refusal :=
  takes (commandTableFetch a b) s

/-- TABLE_COMMIT (R183, R188). -/
def execTableCommit (a : BitVec 8) (b : BitVec 16) (s : State) : Host.Outcome State Fault Refusal :=
  takes (fun s => reportAll (commandTableCommit a b s)) s

/-- INVALID_COMMAND: a word whose code is unknown or whose arguments are out of range is answered INVALID, with its code
as written (R180, R195). A word in range is no invalid command and is not this row's event. -/
def execInvalidCommand (w : Word) (s : State) : Host.Outcome State Fault Refusal :=
  takes (fun s => if commandInRange w then s else answerInvalid (commandCode w) s) s

/-- What a write to COMMAND starts (R180): the command its word names, or an INVALID answer. -/
def takeCommandWord (w : Word) (s : State) : State :=
  match Command.ofCode (commandCode w) with
  | none => answerInvalid (commandCode w) s
  | some .portReset => commandPortReset (commandArgA w) s
  | some .targetReset => reportAll (commandTargetReset s)
  | some .softReset => commandSoftReset s
  | some .reshape => commandReshape (commandArgB w) s
  | some .logPop => commandLogPop s
  | some .logClear => commandLogClear s
  | some .tableFetch => commandTableFetch (commandArgA w) (commandArgB w) s
  | some .tableCommit => reportAll (commandTableCommit (commandArgA w) (commandArgB w) s)

/-! Writes of the register window (R173, R179) -/

/-- The frame has ended at the release of select (R178). -/
def endFrame (s : State) : State := { s with mgmt := { s.mgmt with frame := .idle } }

/-- A write to EVENT_PENDING clears each occurrence bit written 1; bits 31:16 are ignored and condition bits are not held
here (R173, R195). -/
def writePending (w : Word) (s : State) : State :=
  endFrame { s with events := { s.events with occ := s.events.occ &&& ~~~(w.setWidth 16) } }

/-- A write to EVENT_ENABLE replaces the enable set; bits 31:16 are ignored (R173, R195). -/
def writeEnable (w : Word) (s : State) : State :=
  endFrame { s with events := { s.events with enable := w.setWidth 16 } }

/-- A write to a staging word is stored whole (R197); a write to a read-only or unassigned word is discarded (R179). -/
def writeStaging (addr : BitVec 16) (w : Word) (s : State) : State :=
  match stagingIndex addr with
  | some i => endFrame { s with mgmt := { s.mgmt with staging := s.mgmt.staging.set i.val w } }
  | none => endFrame s

/-- A write of one register, by the access kind of its address (R179; log 19). -/
def writeRegister (addr : BitVec 16) (w : Word) (s : State) : State :=
  if addr = addrEventPending then writePending w s
  else if addr = addrEventEnable then writeEnable w s
  else if addr = addrCommand then takeCommandWord w s
  else writeStaging addr w s

/-- EVENT_PENDING_WRITE (R173). -/
def execEventPendingWrite (w : Word) (s : State) : Host.Outcome State Fault Refusal := takes (writePending w) s

/-- EVENT_ENABLE_WRITE (R173). -/
def execEventEnableWrite (w : Word) (s : State) : Host.Outcome State Fault Refusal := takes (writeEnable w) s

/-- REGISTER_WRITE (R179). -/
def execRegisterWrite (addr : BitVec 16) (w : Word) (s : State) : Host.Outcome State Fault Refusal :=
  takes (writeRegister addr w) s

/-- WRITE_FRAME_DISCARD: the frame has ended early; none of its words is written, no command is started, and
COMMAND_RESULT is unchanged (R178). -/
def execWriteFrameDiscard (s : State) : Host.Outcome State Fault Refusal := takes endFrame s

end Sys2Proof.Machine
end

