-- ==== Sys2Proof/Machine/Timers.lean ====
section
/-! DEFINITION. The Tag Table's expiries (1.4, 05): the deadlines, backoffs and quarantines that the present tick has
reached, each kind taken as one event with the orders of R99. -/

namespace Sys2Proof.Machine

/-- The deadline of a tag record, in the states that carry one (R99). -/
def TagRec.deadline (r : TagRec) : Option Tick :=
  match r.phase with
  | .issued d => some d
  | .filling d => some d
  | .backoff d _ => some d
  | .lapsed _ => none

/-- The tag's deadline is reached (R101). -/
def deadlineDue (s : State) (t : Tag) : Bool :=
  match s.tagRec t with
  | none => false
  | some r =>
    match r.deadline with
    | some d => reached s.timebase d
    | none => false

/-- The tag's backoff end is reached; void where its deadline is reached at the same tick (R15, R99). -/
def backoffDue (s : State) (t : Tag) : Bool :=
  match s.tagRec t with
  | none => false
  | some r =>
    match r.phase with
    | .backoff d (some e) => reached s.timebase e && !reached s.timebase d
    | _ => false

/-- The tag's quarantine end is reached (R16). -/
def quarantineDue (s : State) (t : Tag) : Bool :=
  match s.tagRec t with
  | none => false
  | some r =>
    match r.phase with
    | .lapsed q => reached s.timebase q
    | _ => false

/-- The TIMEOUT_LAPSE record of a live tag: what the tag record and the request record give (R101, R165). -/
def timeoutLapseEntry (s : State) (t : Tag) (r : TagRec) : LogEntry :=
  let q := (s.port r.port).slot r.slot
  { kind := .timeoutLapse, port := some r.port, tag := some t, hostId := q.bind (·.hostId), session := some r.session,
    cls := q.map (·.cls), length := some r.length, address := some (.target r.addr) }

/-- The ORPHAN_LAPSE record (R21, R101, R165). -/
def orphanLapseEntry (t : Tag) (r : TagRec) : LogEntry :=
  { kind := .orphanLapse, port := some r.port, tag := some t, session := some r.session, length := some r.length,
    address := some (.target r.addr) }

/-- A deadline expiry at the tag: BACKOFF frees it and takes it from the retry queue; ISSUED and FILLING lapse, with the
log record of R101. -/
def expireTag (t : Tag) (s : State) : State :=
  match s.tagRec t with
  | none => s
  | some r =>
    match r.phase with
    | .lapsed _ => s
    | .backoff _ _ => { freeTag t s with arb := leaveRetryQueue t s.arb }
    | .issued _ =>
      appendLog (if r.orphaned then orphanLapseEntry t r else timeoutLapseEntry s t r) (lapse t r s)
    | .filling _ =>
      appendLog (if r.orphaned then orphanLapseEntry t r else timeoutLapseEntry s t r) (lapse t r s)

/-- The deadline expiries of the present tick (R99, R101): the tags in ascending order, then the retirements TIMEOUT of
their live subrequests in the order of their records' entries, then the drain test. -/
def takeDeadlines (s : State) : State :=
  let due := allTags.filter (deadlineDue s)
  let es := (liveEntries s).filter fun e => deadlineDue s e.2.2.2
  drainTest (retireAll .timeout es (due.foldl (fun acc t => expireTag t acc) s))

/-- One tag's backoff ends: it stays in BACKOFF and joins the tail of the retry queue (R15). -/
def endBackoff (t : Tag) (s : State) : State :=
  match s.tagRec t with
  | none => s
  | some r =>
    match r.phase with
    | .backoff d _ =>
      { s.setTag t (some { r with phase := .backoff d none }) with
        arb := { s.arb with retryQ := s.arb.retryQ ++ [t] } }
    | _ => s

/-- The backoffs that the present tick ends, in ascending order of tag number (R99, R103). -/
def takeBackoffEnds (s : State) : State :=
  (allTags.filter (backoffDue s)).foldl (fun acc t => endBackoff t acc) s

/-- The quarantines that the present tick ends (R16, R107). -/
def takeQuarantineEnds (s : State) : State :=
  (allTags.filter (quarantineDue s)).foldl (fun acc t => freeTag t acc) s

/-- DEADLINE_EXPIRY (R101). -/
def execDeadlineExpiry (s : State) : Host.Outcome State Fault Refusal :=
  takes (fun s => reportAll (takeDeadlines s)) s

/-- BACKOFF_END (R15). -/
def execBackoffEnd (s : State) : Host.Outcome State Fault Refusal := takes takeBackoffEnds s

/-- QUARANTINE_END (R16). -/
def execQuarantineEnd (s : State) : Host.Outcome State Fault Refusal := takes takeQuarantineEnds s

end Sys2Proof.Machine
end

