-- ==== Sys2Proof/Machine/Clock.lean ====
section
/-! DEFINITION. TICK_EVENT (R97), and the expiries that a tick has brought and that are still to be taken. -/

namespace Sys2Proof.Machine

/-- Every expiry that the present tick has brought and no row has taken yet, block by block (R98, R99; log 4): the Tag
Table's, the drain limit, the stall timers and the holdoffs of the ports, and the target lane's two end ticks. Each is taken
as its own row takes it, so the reports of R127 that the deadlines bring reach the stall timers before a stall expiry is read
from them (R140). Where nothing is due this makes those reports and changes nothing else. -/
def closeTick (s : State) : State :=
  let s1 := takeQuarantineEnds (takeBackoffEnds (reportAll (takeDeadlines s)))
  let s2 := takeDrainLimit s1
  let s3 := allPorts.foldl (fun acc h => takeStallExpiry h acc) s2
  let s4 := allPorts.foldl (fun acc h => endHoldoff h acc) s3
  takeTrainEnd (endTargetHoldoff s4)

/-- A tick event: the timebase rises by one, wrapping at 2^32 (R97), and the RUNNING stall timers count (R141). The other
timers are end ticks, which the new value may have reached (R98). -/
def advance (s : State) : State :=
  let s1 := { s with timebase := s.timebase + 1 }
  allPorts.foldl (fun acc h => acc.modPort h (stallTick (s.portPolicy h).stallWindow)) s1

/-- TICK_EVENT: what the tick before it brought has been taken when it comes (R98; log 4). -/
def execTickEvent (s : State) : Host.Outcome State Fault Refusal :=
  takes (fun s => advance (closeTick s)) s

end Sys2Proof.Machine
end

