-- ==== Sys2Proof/Machine/Gather.lean ====
section
/-! DEFINITION. The Gather Unit: classifying, checking and placing a completion part, and what it does to the tag and the
request record (01 section 1.3, 04). -/

namespace Sys2Proof.Machine

/-- A completion part as it arrives (04): its status code, its remaining and its data. -/
structure Part where
  status    : BitVec 8
  remaining : Nat
  data      : List Byte
  deriving DecidableEq, Repr

/-- What a checked part is taken as (R77, R78). -/
inductive PartClass where
  /-- A data part of a READ; `poisoned` by its status. -/
  | data (poisoned : Bool)
  /-- A last part that carries no data: a refusal of a READ, or the answer of a WRITE, with the outcome. -/
  | answer (o : SubOutcome)
  | retry
  | malformed
  deriving DecidableEq, Repr

/-- The tag is in ISSUED. -/
def TagRec.isIssued (r : TagRec) : Bool :=
  match r.phase with
  | .issued _ => true
  | _ => false

/-- A data part of a READ ends on a 64-byte-aligned target address, or at the subrequest's end (R77). -/
def dataPartOk (r : TagRec) (q : Part) : Bool :=
  decide (1 ≤ q.data.length) && decide (q.data.length ≤ q.remaining) &&
    (decide ((r.addr.toNat + (r.length - r.remaining) + q.data.length) % Config.blockBytes = 0) ||
      decide (q.data.length = q.remaining))

/-- The checks of a part for a READ tag (R77). -/
def checkReadPart (r : TagRec) (q : Part) : PartClass :=
  if q.remaining ≠ r.remaining then .malformed
  else
    match TcplStatus.ofCode q.status with
    | .ok => if dataPartOk r q then .data false else .malformed
    | .poisoned => if dataPartOk r q then .data true else .malformed
    | .unsupported => if q.data = [] then .answer .unsupported else .malformed
    | .aborted => if q.data = [] then .answer .aborted else .malformed
    | .retry => if q.data = [] ∧ r.isIssued then .retry else .malformed
    | .other => .malformed

/-- The checks of a part for a WRITE tag (R78). -/
def checkWritePart (r : TagRec) (q : Part) : PartClass :=
  if q.data ≠ [] ∨ q.remaining ≠ r.length then .malformed
  else
    match TcplStatus.ofCode q.status with
    | .ok => .answer .ok
    | .unsupported => .answer .unsupported
    | .aborted => .answer .aborted
    | .retry => .retry
    | .poisoned => .malformed
    | .other => .malformed

/-- The checks of a part by the tag's kind (R77, R78). -/
def checkPart (r : TagRec) (q : Part) : PartClass :=
  match r.kind with
  | .read => checkReadPart r q
  | .write => checkWritePart r q

/-- UNMATCHED_COMPLETION for a FREE tag (R76, R165). -/
def unmatchedFreeEntry (t : Tag) (q : Part) : LogEntry :=
  { kind := .unmatchedCompletion, tag := some t, length := some q.remaining, detail := some q.status.toNat }

/-- UNMATCHED_COMPLETION for a tag in BACKOFF (R76, R165). -/
def unmatchedBackoffEntry (t : Tag) (r : TagRec) (q : Part) : LogEntry :=
  { kind := .unmatchedCompletion, port := some r.port, tag := some t, session := some r.session,
    length := some q.remaining, detail := some q.status.toNat }

/-- LATE_COMPLETION (R76, R165). -/
def lateEntry (t : Tag) (r : TagRec) (q : Part) : LogEntry :=
  { kind := .lateCompletion, port := some r.port, tag := some t, session := some r.session,
    address := some (.target r.addr), detail := some q.status.toNat }

/-- MALFORMED_COMPLETION (R79, R165). -/
def malformedEntry (t : Tag) (r : TagRec) (q : Part) : LogEntry :=
  { kind := .malformedCompletion, port := some r.port, tag := some t, session := some r.session,
    length := some q.remaining, address := some (.target r.addr), detail := some q.status.toNat }

/-- RETRY_EXHAUSTED (R84, R165). -/
def retryExhaustedEntry (s : State) (t : Tag) (r : TagRec) : LogEntry :=
  let q := (s.port r.port).slot r.slot
  { kind := .retryExhausted, port := some r.port, tag := some t, hostId := q.bind (·.hostId), session := some r.session,
    cls := q.map (·.cls), length := some r.length, address := some (.target r.addr), detail := some r.retries }

/-- The deadline of a tag in ISSUED or FILLING. -/
def TagRec.runningDeadline (r : TagRec) : Option Tick :=
  match r.phase with
  | .issued d => some d
  | .filling d => some d
  | _ => none

/-- An accepted data part at the tag: expected remaining falls; the tag is FREE at 0 and in FILLING above it (R8, R9). -/
def acceptData (t : Tag) (r : TagRec) (d : Tick) (n : Nat) (s : State) : State :=
  if r.remaining ≤ n then freeTag t s
  else s.setTag t (some { r with remaining := r.remaining - n, phase := .filling d })

/-- The record's marks after a POISONED part that starts at request offset `o` (R80). -/
def markPoisoned (n o : Nat) (q : ReqRec) : ReqRec :=
  { q with
    cut := q.cut.map fun c => { c with subs := c.subs.modify n fun x => { x with poisoned := true } },
    firstPoisoned := some (q.firstPoisoned.getD o) }

/-- The request offset at which a part of a live READ starts: the subrequest's offset plus the bytes accepted (R80). -/
def partOffset (x : Sub) (r : TagRec) : Nat := x.offset + (r.length - r.remaining)

/-- Place a live data part: its bytes go into the request's reserved blocks, and a POISONED part marks the record (R80). -/
def placeData (r : TagRec) (poisoned : Bool) (data : List Byte) (s : State) : State :=
  match entryOf s r with
  | none => s
  | some (q, x) =>
    let s1 := { s with buffer := storeBytes (q.blocks.map (·.val)) (partOffset x r) data s.buffer }
    if poisoned then
      s1.modPort r.port fun p => p.setSlot r.slot (some (markPoisoned r.sub (partOffset x r) q))
    else s1

/-- The outcome of a READ whose last data part has been placed (R81). -/
def dataOutcome (s : State) (r : TagRec) : SubOutcome :=
  match entryOf s r with
  | some (_, x) => if x.poisoned then .poisoned else .ok
  | none => .ok

/-- A subrequest retires through the retirement path, at the record its tag names (R86). -/
def retireTag (r : TagRec) (o : SubOutcome) (s : State) : State := retire r.port r.slot r.sub o s

/-- A well-formed RETRY for a live tag, against the retry limit (R10, R84, R103). -/
def takeRetry (t : Tag) (r : TagRec) (d : Tick) (s : State) : State :=
  if r.retries < s.policy.global.retryLimit then
    s.setTag t (some { r with retries := r.retries + 1,
                              phase := .backoff d (some (after s.timebase s.policy.global.backoff)) })
  else retireTag r .retryExhausted (appendLog (retryExhaustedEntry s t r) (freeTag t s))

/-- A live part, checked (R79 to R84). -/
def livePart (t : Tag) (r : TagRec) (d : Tick) (q : Part) (s : State) : State :=
  match checkPart r q with
  | .malformed => retireTag r .malformed (appendLog (malformedEntry t r q) (lapse t r s))
  | .retry => takeRetry t r d s
  | .answer o => retireTag r o (freeTag t s)
  | .data poisoned =>
    let s1 := acceptData t r d q.data.length (placeData r poisoned q.data s)
    if q.data.length = q.remaining then retireTag r (dataOutcome s1 r) s1 else s1

/-- An orphan's part, checked: no request record is reached and no byte is placed (R20, R85). -/
def orphanPart (t : Tag) (r : TagRec) (d : Tick) (q : Part) (s : State) : State :=
  match checkPart r q with
  | .malformed => appendLog (malformedEntry t r q) (lapse t r s)
  | .retry => freeTag t s
  | .answer _ => freeTag t s
  | .data _ => acceptData t r d q.data.length s

/-- A TCPL taken in UP, classified by its tag record (R75, R76). -/
def takePart (t : Tag) (q : Part) (s : State) : State :=
  match s.tagRec t with
  | none => appendLog (unmatchedFreeEntry t q) s
  | some r =>
    match r.phase with
    | .backoff _ _ => appendLog (unmatchedBackoffEntry t r q) s
    | .lapsed _ => appendLog (lateEntry t r q) s
    | .issued d => if r.orphaned then orphanPart t r d q s else livePart t r d q s
    | .filling d => if r.orphaned then orphanPart t r d q s else livePart t r d q s

/-- TCPL: passed to the Gather Unit in UP, discarded in TRAINING and HOLDOFF; none arrives in DOWN (R149, R157). A part
may take a tag out of ISSUED, FILLING or BACKOFF or a record out of ISSUING, so a drain is tested (R66). -/
def execTcpl (t : Tag) (status : BitVec 8) (remaining : BitVec 16) (data : List Byte) (s : State) :
    Host.Outcome State Fault Refusal :=
  takes (fun s =>
    if s.targetUp then reportAll (drainTest (takePart t ⟨status, remaining.toNat, data⟩ s)) else s) s

end Sys2Proof.Machine
end

