-- ==== Sys2Proof/Machine/Dispatch.lean ====
section
/-! DEFINITION. One arm for each command: the call of its meaning. -/

namespace Sys2Proof.Machine

/-- What a command does to everything but the queue (95). -/
def exec (i : Instr) (s : State) : Host.Outcome State Fault Refusal :=
  match i with
  | .tickEvent => Sys2Proof.Machine.execTickEvent s
  | .deadlineExpiry => Sys2Proof.Machine.execDeadlineExpiry s
  | .backoffEnd => Sys2Proof.Machine.execBackoffEnd s
  | .quarantineEnd => Sys2Proof.Machine.execQuarantineEnd s
  | .drainLimitExpiry => Sys2Proof.Machine.execDrainLimitExpiry s
  | .drainComplete => Sys2Proof.Machine.execDrainComplete s
  | .stallExpiry h => Sys2Proof.Machine.execStallExpiry h s
  | .hostCarrierDetect h => Sys2Proof.Machine.execHostCarrierDetect h s
  | .hostCarrierLoss h => Sys2Proof.Machine.execHostCarrierLoss h s
  | .hostCheckFailure h => Sys2Proof.Machine.execHostCheckFailure h s
  | .hostHoldoffEnd h => Sys2Proof.Machine.execHostHoldoffEnd h s
  | .attach h mask hdrCap dataCap => Sys2Proof.Machine.execAttach h mask hdrCap dataCap s
  | .request h kind id cls addr len data => Sys2Proof.Machine.execRequest h kind id cls addr len data s
  | .credit h hdr data => Sys2Proof.Machine.execCredit h hdr data s
  | .noticeAck h bits => Sys2Proof.Machine.execNoticeAck h bits s
  | .hostUnusablePacket h bytes => Sys2Proof.Machine.execHostUnusablePacket h bytes s
  | .attachAnswerStart h => Sys2Proof.Machine.execAttachAnswerStart h s
  | .grantTransmissionStart h => Sys2Proof.Machine.execGrantTransmissionStart h s
  | .noticeTransmissionStart h => Sys2Proof.Machine.execNoticeTransmissionStart h s
  | .responseTransmissionStart h => Sys2Proof.Machine.execResponseTransmissionStart h s
  | .responseTransmissionEnd h => Sys2Proof.Machine.execResponseTransmissionEnd h s
  | .grantTransmissionEnd h => Sys2Proof.Machine.execGrantTransmissionEnd h s
  | .hostTransmissionEnd h => Sys2Proof.Machine.execHostTransmissionEnd h s
  | .targetCarrierDetect => Sys2Proof.Machine.execTargetCarrierDetect s
  | .targetCarrierLoss => Sys2Proof.Machine.execTargetCarrierLoss s
  | .targetCheckFailure => Sys2Proof.Machine.execTargetCheckFailure s
  | .trainAck hdr data size => Sys2Proof.Machine.execTrainAck hdr data size s
  | .trainEndTickExpiry => Sys2Proof.Machine.execTrainEndTickExpiry s
  | .targetHoldoffEnd => Sys2Proof.Machine.execTargetHoldoffEnd s
  | .tcpl tag status remaining data => Sys2Proof.Machine.execTcpl tag status remaining data s
  | .tcredit hdr data => Sys2Proof.Machine.execTcredit hdr data s
  | .targetUnusablePacket bytes => Sys2Proof.Machine.execTargetUnusablePacket bytes s
  | .treqTransmissionEnd => Sys2Proof.Machine.execTreqTransmissionEnd s
  | .issueGrant => Sys2Proof.Machine.execIssueGrant s
  | .retryGrant => Sys2Proof.Machine.execRetryGrant s
  | .claimEntry => Sys2Proof.Machine.execClaimEntry s
  | .dataCreditHold => Sys2Proof.Machine.execDataCreditHold s
  | .readCeilingRetire => Sys2Proof.Machine.execReadCeilingRetire s
  | .fenceReady h => Sys2Proof.Machine.execFenceReady h s
  | .eventPendingWrite w => Sys2Proof.Machine.execEventPendingWrite w s
  | .eventEnableWrite w => Sys2Proof.Machine.execEventEnableWrite w s
  | .registerWrite addr w => Sys2Proof.Machine.execRegisterWrite addr w s
  | .writeFrameDiscard => Sys2Proof.Machine.execWriteFrameDiscard s
  | .invalidCommand w => Sys2Proof.Machine.execInvalidCommand w s
  | .portReset a => Sys2Proof.Machine.execPortReset a s
  | .targetReset => Sys2Proof.Machine.execTargetReset s
  | .softReset => Sys2Proof.Machine.execSoftReset s
  | .reshape b => Sys2Proof.Machine.execReshape b s
  | .logPop => Sys2Proof.Machine.execLogPop s
  | .logClear => Sys2Proof.Machine.execLogClear s
  | .tableFetch a b => Sys2Proof.Machine.execTableFetch a b s
  | .tableCommit a b => Sys2Proof.Machine.execTableCommit a b s
  | .powerOnReset => Sys2Proof.Machine.execPowerOnReset s
  | .pinReset => Sys2Proof.Machine.execPinReset s
  | .resetHoldBegin c => Sys2Proof.Machine.execResetHoldBegin c s

end Sys2Proof.Machine
end

