-- ==== Sys2Proof/Machine/Formats.lean ====
section
/-! DEFINITION. The byte layouts of 11: the packets that the part takes, as functions from bytes to commands; the packets
that it sends, as functions to bytes; and the SPI frame, as a function to the commands it stands for. -/

namespace Sys2Proof.Machine

/-- The kind code of a packet, its first byte; 0, which no packet has, for an empty one (11.1). -/
def kindCode (bytes : List Byte) : Byte := bytes.headD 0

/-- The header length of a host-to-part packet; none where the code is not one of the four (11.2). -/
def hostHeader (c : Byte) : Option Nat :=
  if c = 0x01 then some 8 else if c = 0x02 then some 16 else if c = 0x03 then some 8
  else if c = 0x04 then some 8 else none

/-- The header length of a target-to-part packet; none where the code is not one of the three (11.3). -/
def targetHeader (c : Byte) : Option Nat :=
  if c = 0x31 then some 8 else if c = 0x32 then some 8 else if c = 0x33 then some 8 else none

/-- A packet is unusable: its kind code is unknown, or it is shorter than its kind's header (R192, R193). -/
def unusable (header : Byte → Option Nat) (bytes : List Byte) : Bool :=
  match header (kindCode bytes) with
  | none => true
  | some n => decide (bytes.length < n)

/-- A packet that a host lane discards (R192). -/
def hostUnusable (bytes : List Byte) : Bool := unusable hostHeader bytes

/-- A packet that the target lane discards (R193). -/
def targetUnusable (bytes : List Byte) : Bool := unusable targetHeader bytes

/-- The command that a packet with a good check sequence on the lane of port `h` stands for: fields at their full width,
reserved bits and bytes and what follows a fixed header not read (R192). -/
def hostCommand (h : Port) (bytes : List Byte) : Instr :=
  if hostUnusable bytes then .hostUnusablePacket h bytes
  else if kindCode bytes = 0x01 then
    .attach h (BitVec.ofNat 6 (fieldAt bytes 1 1)) (BitVec.ofNat 8 (fieldAt bytes 2 1))
      (BitVec.ofNat 16 (fieldAt bytes 4 2))
  else if kindCode bytes = 0x02 then
    .request h (BitVec.ofNat 8 (fieldAt bytes 1 1)) (BitVec.ofNat 6 (fieldAt bytes 2 1))
      (BitVec.ofNat 2 (fieldAt bytes 2 1 / 64)) (BitVec.ofNat 48 (fieldAt bytes 4 6))
      (BitVec.ofNat 16 (fieldAt bytes 10 2)) (bytes.drop 16)
  else if kindCode bytes = 0x03 then
    .credit h (BitVec.ofNat 8 (fieldAt bytes 1 1)) (BitVec.ofNat 16 (fieldAt bytes 2 2))
  else .noticeAck h (BitVec.ofNat 6 (fieldAt bytes 1 1))

/-- The command that a packet with a good check sequence on the target lane stands for; bit 7 of a TCPL's tag byte is not
read (R193). -/
def targetCommand (bytes : List Byte) : Instr :=
  if targetUnusable bytes then .targetUnusablePacket bytes
  else if kindCode bytes = 0x31 then
    .trainAck (BitVec.ofNat 8 (fieldAt bytes 1 1)) (BitVec.ofNat 16 (fieldAt bytes 2 2))
      (BitVec.ofNat 16 (fieldAt bytes 4 2))
  else if kindCode bytes = 0x32 then
    .tcpl ⟨fieldAt bytes 1 1 % 128, by omega⟩ (BitVec.ofNat 8 (fieldAt bytes 2 1))
      (BitVec.ofNat 16 (fieldAt bytes 4 2)) (bytes.drop 8)
  else .tcredit (BitVec.ofNat 8 (fieldAt bytes 1 1)) (BitVec.ofNat 16 (fieldAt bytes 2 2))

/-- An eight-byte header, its unnamed bytes 0 (11.2; R191: every reserved byte sent is 0). -/
def header8 (fields : List Byte) : List Byte := fields ++ List.replicate (8 - fields.length) 0

/-- The header and data bytes of a packet to a host (11.2). -/
def HostPacket.bytes : HostPacket → List Byte
  | .answer (.ack n cause) =>
    header8 ([0x09] ++ leBytes 1 n ++ leBytes 1 Config.requestSlots ++ leBytes 1 Config.stagingBlocks ++
      leBytes 1 cause.code)
  | .answer (.nak cause) => header8 ([0x0A] ++ leBytes 1 cause.code)
  | .grant hdr data => header8 ([0x0B] ++ leBytes 1 hdr ++ leBytes 1 data)
  | .notice bits => header8 ([0x0D] ++ leBytes 1 bits.toNat)
  | .response _ status id offset data =>
    header8 ([0x0C] ++ leBytes 1 status.code ++ leBytes 1 id.toNat ++
      leBytes 1 (place 0 (bit offset.isSome) + place 1 (bit data.isSome)) ++ leBytes 2 (offset.getD 0)) ++
      data.getD []

/-- The header and data bytes of a TREQ (11.3). -/
def Treq.bytes (t : Treq) : List Byte :=
  [0x22] ++ leBytes 1 t.kind.code ++ leBytes 1 ((t.tag.map (·.val)).getD 0) ++ [0] ++ leBytes 5 t.addr.toNat ++
    leBytes 2 t.length ++ [0] ++ t.data

/-- The bytes of what the target lane's transmitter is sending (11.3). -/
def TargetTx.bytes : TargetTx → List Byte
  | .idle => []
  | .train => header8 [0x21]
  | .treq t => t.bytes

/-! The SPI frame (11.5) -/

/-- The words of a frame with their addresses: each word at the address one above the word before it, wrapping from
0xFFFF to 0x0000 (R194). -/
def frameWords (addr : BitVec 16) : List Word → List (BitVec 16 × Word)
  | [] => []
  | w :: ws => (addr, w) :: frameWords (addr + 1) ws

/-- The command that a word written to COMMAND stands for (R180). -/
def commandOfWord (w : Word) : Instr :=
  if commandInRange w then
    match Command.ofCode (commandCode w) with
    | some .portReset => .portReset (commandArgA w)
    | some .targetReset => .targetReset
    | some .softReset => .softReset
    | some .reshape => .reshape (commandArgB w)
    | some .logPop => .logPop
    | some .logClear => .logClear
    | some .tableFetch => .tableFetch (commandArgA w) (commandArgB w)
    | some .tableCommit => .tableCommit (commandArgA w) (commandArgB w)
    | none => .invalidCommand w
  else .invalidCommand w

/-- The command that one word written at an address stands for, by the access kind of the address (R173, R179, R180). -/
def commandOfWrite (x : BitVec 16 × Word) : Instr :=
  if x.1 = addrCommand then commandOfWord x.2
  else if x.1 = addrEventPending then .eventPendingWrite x.2
  else if x.1 = addrEventEnable then .eventEnableWrite x.2
  else .registerWrite x.1 x.2

/-- Put a word before those at its own address and above. -/
def insertByAddr (x : BitVec 16 × Word) : List (BitVec 16 × Word) → List (BitVec 16 × Word)
  | [] => [x]
  | y :: ys => if x.1.toNat ≤ y.1.toNat then x :: y :: ys else y :: insertByAddr x ys

/-- The words of a complete write frame in the order in which they are written: in ascending word address, a write to
COMMAND after every other (R178). A frame of more than 65,536 words reaches addresses twice (R194): DESIGN CHOICE, log 30:
writes to one address stay in frame order. -/
def frameOrder (addr : BitVec 16) (words : List Word) : List (BitVec 16 × Word) :=
  let ws := (frameWords addr words).foldr insertByAddr []
  ws.filter (·.1 != addrCommand) ++ ws.filter (·.1 == addrCommand)

/-- The commands of a complete write frame, one for each word (R178; log 18). R180 counts on one command a frame at most; a
frame long enough to reach COMMAND twice gives both: DESIGN CHOICE, log 30. -/
def frameCommands (addr : BitVec 16) (words : List Word) : List Instr := (frameOrder addr words).map commandOfWrite

/-- The four bytes of each word, least significant first; none where the bytes end partway through a word (11.5). -/
def wordsOf : List Byte → Option (List Word)
  | [] => some []
  | a :: b :: c :: d :: rest => (wordsOf rest).map fun ws => BitVec.ofNat 32 (leValue [a, b, c, d]) :: ws
  | _ => none

/-- The header of a frame: whether it is a write, by bit 7 of byte 0, and the word address of its first register (11.5);
none until its third byte has been received. The other bits of byte 0 are not read (R194). -/
def frameHeader (bytes : List Byte) : Option (Bool × BitVec 16) :=
  match bytes with
  | b :: lo :: hi :: _ => some (b.getLsbD 7, BitVec.ofNat 16 (leValue [lo, hi]))
  | _ => none

/-- The rows that the bytes of a frame stand for, from its header on to the release of select. A frame released before its
header is whole has no effect (R177); a write frame that ends before its first data word or partway through a word is
discarded whole (R178); a read frame changes no state, so it is no row (R177). -/
def frameRows (bytes : List Byte) : List Instr :=
  match frameHeader bytes with
  | none => [.writeFrameDiscard]
  | some (false, _) => []
  | some (true, addr) =>
    match wordsOf (bytes.drop 3) with
    | some (w :: ws) => frameCommands addr (w :: ws)
    | some [] => [.writeFrameDiscard]
    | none => [.writeFrameDiscard]

end Sys2Proof.Machine
end

