-- ==== Sys2Proof/Machine/Window.lean ====
section
/-! DEFINITION. The register window as a view of the state: what each word reads as (11.6, 11.7), and a read frame
(R177). Reading changes no state, so no row stands for it. -/

namespace Sys2Proof.Machine

/-- A word put together from fields. -/
def wordOf (fields : List Nat) : Word := BitVec.ofNat 32 fields.sum

/-! The log view (11.7) -/

/-- The presence bits of a record (11.7). -/
def LogEntry.presence (e : LogEntry) : Nat :=
  place 0 (bit e.port.isSome) + place 1 (bit e.tag.isSome) + place 2 (bit e.hostId.isSome) +
    place 3 (bit e.session.isSome) + place 4 (bit e.cls.isSome) + place 5 (bit e.length.isSome) +
    place 6 (bit e.address.isSome) + place 7 (bit e.detail.isSome)

/-- The bits of a record's address; 0 where it is absent (R196). -/
def LogEntry.addressBits (e : LogEntry) : Nat :=
  match e.address with
  | some (.target a) => a.toNat
  | some (.host a) => a.toNat
  | none => 0

/-- The address mark: 1 for a host address, 0 for a target address or none (R196). -/
def LogEntry.mark (e : LogEntry) : Nat :=
  match e.address with
  | some (.host _) => 1
  | some (.target _) => 0
  | none => 0

/-- The seven words of a record in the log view (11.7). -/
def LogRec.words (r : LogRec) : List Word :=
  let e := r.entry
  [ wordOf [place 0 r.seq.toNat, place 16 e.kind.code, place 31 1],
    r.tick,
    wordOf [e.presence],
    wordOf [place 0 ((e.port.map (·.val)).getD 0), place 8 ((e.tag.map (·.val)).getD 0),
      place 16 ((e.hostId.map (·.toNat)).getD 0), place 24 ((e.cls.map (·.toNat)).getD 0), place 28 e.mark],
    wordOf [place 0 (e.session.getD 0), place 16 (e.length.getD 0)],
    wordOf [e.addressBits % 2 ^ 32],
    wordOf [place 0 (e.addressBits / 2 ^ 32), place 16 (e.detail.getD 0)] ]

/-- Word `i` of the log view, all 0 while it holds no record (R196). -/
def viewWord (l : FaultLog) (i : Nat) : Word :=
  match l.view with
  | none => 0
  | some r => r.words.getD i 0

/-! The registers (11.6) -/

/-- A size register: bytes, or 0 before the first training (R74, R163). -/
def mrsBytes (m : Option Mrs) : Nat := (m.map Mrs.bytes).getD 0

/-- The data-credit holder's code (11.6). -/
def holderCode : Option Holder → Nat
  | none => 0
  | some (.tag _) => 1
  | some (.port h) => 4 + h.val

/-- The ports of the claim entries, oldest first, two bits each (11.6). -/
def claimPorts (a : Arbiter) : Nat := (a.claims.zipIdx.map fun (c, i) => place (4 + 2 * i) c.1.val).sum

def claimRetryWord (s : State) : Word :=
  wordOf [place 0 s.arb.claims.length, claimPorts s.arb, place 16 s.arb.retryQ.length,
    place 24 (holderCode s.arb.dataHold)]

def arbiterWord (s : State) : Word :=
  wordOf [place 0 s.arb.pointer.val, place 4 s.arb.burst, place 8 (bit (s.arb.reshape != .idle)),
    place 10 s.arb.outcome.code]

def targetLaneWord (s : State) : Word :=
  wordOf [place 0 s.target.link.code, place 4 s.target.lastDown.code, place 16 (mrsBytes s.target.maxReq)]

/-- The advertised totals read 0 while the lane is not UP (R163). -/
def totalWhenUp (s : State) (n : Nat) : Nat := if s.targetUp then n else 0

/-- The six registers of a port, by their place in its group (11.6). -/
def portWord (p : PortState) (i : Nat) : Word :=
  if i = 0 then
    wordOf [place 0 p.link.code, place 4 (bit p.waitingOnCredits), place 8 p.session, place 16 p.endCause.code,
      place 20 (bit p.fenceFault)]
  else if i = 1 then wordOf [place 0 p.capHdr, place 16 p.capData]
  else if i = 2 then wordOf [place 0 p.respHdr, place 16 p.respData]
  else if i = 3 then wordOf [place 0 p.reqHdr, place 8 p.reqData, place 16 p.retHdr, place 24 p.retData]
  else if i = 4 then
    wordOf [place 0 p.noticeMask.toNat, place 8 p.noticePending.toNat, place 16 (bit p.snapshot.isSome)]
  else if i = 5 then wordOf [place 0 p.stallCount, place 16 p.stallMode.code]
  else 0

/-- The port whose group of registers holds an address, 0x020 to 0x03F (11.6). -/
def portGroup (a : Nat) : Option (Port × Nat) :=
  if ha : 0x20 ≤ a ∧ a < 0x40 then some (⟨(a - 0x20) / 8, by omega⟩, a % 8) else none

/-- The words of the window below the port groups (11.6); an unassigned word reads 0 (R179). -/
def partWord (s : State) (a : Nat) : Word :=
  if a = 0x00 then wordOf [s.mgmt.resetCause.code]
  else if a = 0x02 then wordOf [place 0 s.mgmt.lastCommand.toNat, place 8 s.mgmt.result.code]
  else if a = 0x03 then wordOf [(pendingSet s).toNat]
  else if a = 0x04 then wordOf [s.events.enable.toNat]
  else if a = 0x05 then s.timebase
  else if a = 0x06 then wordOf [place 0 s.log.records.length, place 16 s.log.next.toNat]
  else if 0x08 ≤ a ∧ a < 0x0F then viewWord s.log (a - 0x08)
  else if a = 0x10 then wordOf (allPorts.map fun h => place (8 * h.val) (held s h))
  else if a = 0x11 then wordOf [place 0 (freeTags s), place 8 (lapsedTags s), place 16 (orphanedTags s)]
  else if a = 0x12 then wordOf [(freeBlocks s).length]
  else if a = 0x13 then wordOf [place 0 (s.port 0).reserved, place 16 (s.port 1).reserved]
  else if a = 0x14 then wordOf [place 0 (s.port 2).reserved, place 16 (s.port 3).reserved]
  else if a = 0x15 then claimRetryWord s
  else if a = 0x16 then arbiterWord s
  else if a = 0x17 then wordOf [place 0 s.arb.configuredMrs.bytes, place 16 (mrsBytes s.target.effMrs)]
  else if a = 0x18 then targetLaneWord s
  else if a = 0x19 then wordOf [place 0 (totalWhenUp s s.target.totalHdr), place 8 s.target.heldHdr]
  else if a = 0x1A then wordOf [place 0 (totalWhenUp s s.target.totalData), place 16 s.target.heldData]
  else 0

/-- What the word at an address reads as. COMMAND and every unassigned word read 0 (R179). -/
def readWord (s : State) (addr : BitVec 16) : Word :=
  match stagingIndex addr with
  | some i => s.mgmt.staging[i.val]
  | none =>
    match portGroup addr.toNat with
    | some (h, i) => portWord (s.port h) i
    | none => partWord s addr.toNat

/-- `n` words of the window as they stand at one moment, at consecutive addresses that wrap at 0xFFFF (R177, R194). -/
def readWords (s : State) : BitVec 16 → Nat → List Word
  | _, 0 => []
  | addr, n + 1 => readWord s addr :: readWords s (addr + 1) n

/-- What the part drives on its SPI data output after the header of a frame, by the time `n` data words have been shifted:
the words of a read frame, sampled as its header became whole, each least significant byte first (R177, 11.5). None where
the output stays at its idle level: during the header (11.5), and in the reset hold, in which SPI frames are ignored (R189).
That it also stays there during the data words of a write frame is DESIGN CHOICE, log 33: 11.5 gives the output of a read
frame alone. -/
def readFrame (s : State) (bytes : List Byte) (n : Nat) : Option (List Byte) :=
  if s.inHold then none
  else
    match frameHeader bytes with
    | some (false, addr) => some ((readWords s addr n).flatMap fun w => leBytes 4 w.toNat)
    | some (true, _) => none
    | none => none

end Sys2Proof.Machine
end

