-- ==== Sys2Proof/Safety.lean ====
section
/-! DEFINITION. What a sound state of the part is: the balances, orders and ranges that the spec says hold at every
moment, each a decidable property of the state. -/

namespace Sys2Proof.Machine

/-! Request credits and slots of a port (R29, R122) -/

/-- The request credits carried by a GRANT that is being sent (R122). -/
def PortState.grantSent (p : PortState) : Nat × Nat :=
  match p.tx with
  | some (.grant hdr data) => (hdr, data)
  | _ => (0, 0)

/-- The balance of R29, credits in a GRANT being sent included (R122), with no staging block held twice (R28). A port with
no open session holds no record and no credit is on its way. -/
abbrev PortState.creditsBalance (p : PortState) : Prop :=
  p.heldStaging.Nodup ∧
    (if p.isActive then
      p.reqHdr + p.occupied + p.retHdr + p.grantSent.1 = Config.requestSlots ∧
        p.reqData + p.heldStaging.length + p.retData + p.grantSent.2 = Config.stagingBlocks
     else p.occupied = 0 ∧ p.grantSent = (0, 0))

/-- R29 of every port, outside the reset hold: a hold stops what is being sent, and ends in a part reset. -/
abbrev CreditsBalance (s : State) : Prop := s.hold = none → ∀ h : Port, (s.port h).creditsBalance

/-! Response queues (R43) -/

/-- The slot's record is in READY. -/
def PortState.isReady (p : PortState) (i : Slot) : Bool :=
  match p.slot i with
  | some r => r.stage == .ready
  | none => false

/-- The slot that the RESPONSE being sent answers. -/
def PortState.responding (p : PortState) : Option Slot :=
  match p.tx with
  | some (.response i _ _ _ _) => some i
  | _ => none

/-- The response queue holds each READY record once and nothing else, and the RESPONSE being sent is its head's (R43). -/
abbrev PortState.responsesQueued (p : PortState) : Prop :=
  p.respQ.Nodup ∧ (∀ i : Slot, i ∈ p.respQ ↔ p.isReady i = true) ∧
    (∀ i ∈ p.responding, p.respQ.head? = some i)

abbrev ResponsesQueued (s : State) : Prop := ∀ h : Port, (s.port h).responsesQueued

/-! Sessions (R115, R133, R140) -/

/-- The end cause reads NONE exactly while a session is open, whose number is 1 to 255 (R115, R133, R134); a port with no
session has a STOPPED stall timer, and a STOPPED timer's count is 0 (R136, R140). -/
abbrev PortState.sessionSound (p : PortState) : Prop :=
  (p.isActive = true ↔ p.endCause = .none) ∧ p.session ≤ 255 ∧ (p.isActive = true → 1 ≤ p.session) ∧
    (p.isActive = false → p.stallMode = .stopped) ∧ (p.stallMode = .stopped → p.stallCount = 0) ∧
    p.stallCount ≤ Config.stallCountMax

abbrev SessionsSound (s : State) : Prop := ∀ h : Port, (s.port h).sessionSound

/-- The response credits of a port lie within its declared capacities (R124). -/
abbrev ResponseCreditsFit (s : State) : Prop :=
  ∀ h : Port, (s.port h).respHdr ≤ (s.port h).capHdr ∧ (s.port h).respData ≤ (s.port h).capData

/-! Host ID maps (R27) -/

/-- No two records in a port's host ID map carry one ID (R27). -/
abbrev PortState.idsOnce (p : PortState) : Prop :=
  ∀ (i j : Slot), ∀ r ∈ p.slot i, ∀ q ∈ p.slot j, r.mapped = true → q.mapped = true → r.hostId = q.hostId → i = j

abbrev HostIdsOnce (s : State) : Prop := ∀ h : Port, (s.port h).idsOnce

/-! The retry queue and the data-credit hold (R61, R63) -/

/-- The tag is in BACKOFF and its backoff has ended (R15). -/
def State.waitsForRetry (s : State) (t : Tag) : Bool :=
  match s.tagRec t with
  | some r => (match r.phase with | .backoff _ none => true | _ => false)
  | none => false

/-- The retry queue holds each tag whose backoff has ended once, and no other tag (R61); a hold for the retry queue is its
head's (R63). -/
abbrev RetriesQueued (s : State) : Prop :=
  s.arb.retryQ.Nodup ∧ (∀ t : Tag, t ∈ s.arb.retryQ ↔ s.waitsForRetry t = true) ∧
    (∀ t : Tag, s.arb.dataHold = some (.tag t) → s.arb.retryQ.head? = some t)

/-! The Response Buffer and the claim queue (R54, R57) -/

/-- No block is reserved twice (R54). -/
abbrev BlocksReservedOnce (s : State) : Prop := (reservedBlocks s).Nodup

/-- The claim queue holds at most one entry of each port (R57). -/
abbrev OneClaimPerPort (s : State) : Prop := (s.arb.claims.map Prod.fst).Nodup

/-! The target lane (R152, R155, R156, R163) -/

/-- The lane is in TRAINING. -/
def TargetLink.isTraining : TargetLink → Bool
  | .training _ => true
  | _ => false

/-- What is being sent fits the link state: a TREQ is sent in UP alone and a TRAIN in TRAINING alone (R151, R154). -/
def TargetLane.txFits (l : TargetLane) : Bool :=
  match l.tx with
  | .idle => true
  | .train => l.link.isTraining
  | .treq _ => l.link == .up

/-- Credits held never exceed the advertised totals, which are 0 outside UP (R154, R156, R163). -/
abbrev TargetLane.sound (l : TargetLane) : Prop :=
  l.heldHdr ≤ l.totalHdr ∧ l.heldData ≤ l.totalData ∧ l.totalHdr ≤ 64 ∧ l.totalData ≤ 256 ∧
    (l.link ≠ .up → l.totalHdr = 0 ∧ l.totalData = 0) ∧
    l.txFits = true

/-- The effective MRS is the smaller of the configured MRS and the target maximum, from the first training on (R155). -/
abbrev EffectiveMrsFormed (s : State) : Prop := s.target.effMrs = s.target.maxReq.map s.arb.configuredMrs.smaller

abbrev TargetSound (s : State) : Prop :=
  s.target.sound ∧ EffectiveMrsFormed s ∧ (s.target.link = .up → s.target.maxReq ≠ none)

/-! The fault log (R164) -/

/-- At most 32 records, whose sequence numbers are consecutive modulo 65,536 and end just below the next one (R164,
R167). -/
abbrev FaultLog.ordered (l : FaultLog) : Prop :=
  l.records.length ≤ Config.logCapacity ∧
    l.records.map (·.seq) = (List.range l.records.length).map fun k => l.next - BitVec.ofNat 16 (l.records.length - k)

abbrev LogOrdered (s : State) : Prop := s.log.ordered

/-- The occurrence bits hold occurrences alone: the places of the conditions TARGET_DOWN and LOG_NONEMPTY, bits 12 and 14,
are clear in them (R172, R173). -/
abbrev OccurrencesAlone (s : State) : Prop := s.events.occ &&& 0x5000 = 0

/-! The policy records (R184 to R187) -/

/-- Every error-map entry is one that R89 allows (R185). -/
abbrev ErrorMap.allowed (m : ErrorMap) : Prop :=
  entryAllowed false m.unsupported = true ∧ entryAllowed false m.aborted = true ∧ entryAllowed true m.poisoned = true ∧
    entryAllowed false m.timeout = true ∧ entryAllowed false m.linkDown = true ∧ entryAllowed false m.malformed = true ∧
    entryAllowed false m.retryExhausted = true

/-- Every number of the global record lies in its range (R184, R187). -/
abbrev GlobalPolicy.inRange (g : GlobalPolicy) : Prop :=
  g.quarantine ≤ 65535 ∧ 1 ≤ g.backoff ∧ g.backoff ≤ 255 ∧ g.retryLimit ≤ 15 ∧ 1 ≤ g.reshapeLimit ∧
    g.reshapeLimit ≤ 65535

/-- Every committed record passes the validation of its table, and the floors sum to at most 128 (R184 to R187). -/
abbrev PolicyInRange (s : State) : Prop :=
  (∀ h : Port, (s.portPolicy h).inRange = true ∧ (s.portPolicy h).errorMap.allowed) ∧
    (allPorts.map fun h => (s.portPolicy h).floor).sum ≤ 128 ∧
    (∀ i : Fin 16, s.policy.windows[i.val].valid = true) ∧ s.policy.global.inRange

/-! Memory -/

/-- The bytes of the Response Buffer and of the four staging areas keep their canonical form. -/
abbrev MemoriesCanonical (s : State) : Prop := s.buffer.wf ∧ ∀ h : Port, (s.port h).staging.wf

/-! What a tick has brought (R98, R99) -/

/-- A deadline, backoff or quarantine of some tag has been reached. -/
def tagDue (s : State) : Bool := allTags.any fun t => deadlineDue s t || backoffDue s t || quarantineDue s t

/-- The drain limit of a drain in progress has been reached (R69). -/
def drainLimitDue (s : State) : Bool :=
  match s.arb.reshape with
  | .idle => false
  | .draining _ start limit => drainLimitReached s.timebase start limit

/-- The target lane's train end or holdoff end tick has been reached (R151, R154). -/
def targetTimerDue (s : State) : Bool :=
  match s.target.link with
  | .training e => reached s.timebase e
  | .holdoff e => reached s.timebase e
  | .down => false
  | .up => false

/-- A drain in progress has nothing left to wait for (R66). -/
def drainDue (s : State) : Bool :=
  match s.arb.reshape with
  | .idle => false
  | .draining _ _ _ => drainClear s

/-- No expiry that the present tick has brought is still to be taken; whether a stall expiry is due is read from the stall
timers as the reports of R127 leave them. -/
abbrev NothingDue (s : State) : Prop :=
  tagDue s = false ∧ drainDue s = false ∧ drainLimitDue s = false ∧ targetTimerDue s = false ∧
    ∀ h : Port, stallExpiryDue (reportAll s) h = false ∧ holdoffDue s.timebase (s.port h) = false

/-! What a port reset and a target lane loss leave, as statements about the state before and the state after -/

/-- A port of which nothing of the ended session is left: lane, credits, notices, answer, stall timer, flag, slots and
queue; the session number stands, and the end cause is the cause (R46, R131, R133, R136). -/
def PortCleared (lane : HostLink) (cause : EndCause) (p q : PortState) : Prop :=
  q.link = lane ∧ q.endCause = cause ∧ q.session = p.session ∧ q.carrier = p.carrier ∧
    (q.reqHdr, q.reqData, q.retHdr, q.retData) = (0, 0, 0, 0) ∧ (q.respHdr, q.respData) = (0, 0) ∧
    q.noticePending = 0 ∧ q.snapshot = none ∧ q.answer = none ∧ q.tx = none ∧
    q.stallMode = .stopped ∧ q.stallCount = 0 ∧ q.fenceFault = false ∧
    (∀ i : Slot, q.slot i = none) ∧ q.respQ = [] ∧ q.acceptSeq = 0

/-- What a port reset of `h` does beyond the port: its tags are orphaned or freed and those of the other ports stand
(R19); its retries, its claim and its hold leave the arbiter (R71); LINK_DOWN is pending (R137); the timebase and the
policy stand. -/
def PortLeft (h : Port) (s t : State) : Prop :=
  (∀ x : Tag, t.tagRec x = orphanTag h (s.tagRec x)) ∧
    t.arb.retryQ = s.arb.retryQ.filter (fun x => !chargedTo h (s.tagRec x)) ∧
    t.arb.claims = s.arb.claims.filter (fun c => c.1 != h) ∧ t.arb.dataHold ≠ some (.port h) ∧
    t.arb.pointer = s.arb.pointer ∧ t.arb.burst = s.arb.burst ∧
    t.events.occ.getLsbD (4 + h.val) = true ∧ t.timebase = s.timebase ∧ t.policy = s.policy ∧
    t.buffer = s.buffer ∧ t.pending = s.pending

/-- The record that the event appended last (R164). -/
def LastLogged (s t : State) (e : LogEntry) : Prop :=
  ∃ r, t.log.records.getLast? = some r ∧ r.entry = e ∧ r.tick = s.timebase ∧ t.log.next = r.seq + 1

/-- What a target lane loss leaves of the lane, the tags and the queues (R22, R70, R72, R154, R158). -/
def TargetLost (cause : DownCause) (s t : State) : Prop :=
  t.target.link = .holdoff (s.timebase + 64) ∧ t.target.lastDown = cause ∧ t.target.tx = .idle ∧
    (t.target.totalHdr, t.target.totalData, t.target.heldHdr, t.target.heldData) = (0, 0, 0, 0) ∧
    (∀ x : Tag, t.tagRec x = none) ∧ t.arb.retryQ = [] ∧ t.arb.dataHold = none ∧ t.arb.reshape = .idle ∧
    (pendingSet t).getLsbD eventTargetDown = true ∧
    LastLogged s t { kind := .targetLaneDown, detail := some cause.code } ∧
    t.timebase = s.timebase ∧ t.policy = s.policy ∧ t.buffer = s.buffer ∧ t.pending = s.pending

/-! What a part and a retirement do, as statements about the state before and the state after -/

/-- A part is well-formed for a tag record (R77, R78): the rows of R77 for a READ tag, the three conditions of R78 for a
WRITE tag; status 0 is OK, 1 POISONED, 2 UNSUPPORTED, 3 ABORTED and 4 RETRY (11.3). -/
abbrev PartFits (r : TagRec) (status : BitVec 8) (rem : Nat) (data : List Byte) : Prop :=
  if r.kind = .write then
    data = [] ∧ rem = r.length ∧ (status = 0 ∨ status = 2 ∨ status = 3 ∨ status = 4)
  else
    rem = r.remaining ∧
      ((status = 0 ∨ status = 1) ∧ 1 ≤ data.length ∧ data.length ≤ rem ∧
          ((r.addr.toNat + (r.length - r.remaining) + data.length) % 64 = 0 ∨ data.length = rem) ∨
        (status = 2 ∨ status = 3) ∧ data = [] ∨ status = 4 ∧ data = [] ∧ r.isIssued = true)

/-- An outcome counts as a failure: neither OK nor CANCELLED, and POISONED only where the map's entry is another status
than POISONED_DATA (R86, R87). -/
def countsAsFailure (m : ErrorMap) (o : SubOutcome) : Bool :=
  o != .ok && o != .cancelled && (o != .poisoned || m.poisoned != .poisonedData)

/-- The response status of a record that enters READY, by the rows of R90: from its first failure `f`, and else from its
first poisoned offset `z`. -/
abbrev ReadyStatus (m : ErrorMap) (f : Option (SubOutcome × Nat)) (z : Option Nat) (st : HostStatus) : Prop :=
  (∀ o ∈ f.map Prod.fst, o ≠ .poisoned → st = m.entry o) ∧
    (f.map Prod.fst = some .poisoned → st = if m.poisoned = .poisonedData then .dataError else m.poisoned) ∧
    (f = none → z ≠ none → st = m.poisoned) ∧ (f = none → z = none → st = .ok)

/-- The subrequest at entry `n` of a READ or WRITE record in slot `i` of port `h` retires with outcome `o`: the outcome is
written into the entry (R86); a failure is recorded where the record has none and cancels the unissued entries of a record
in ISSUING, which moves to AWAITING (R87, R88); a record in AWAITING whose entries all have outcomes enters READY at the
tail of the response queue, its staging blocks freed (R28, R90, R92). The rest of the record stands, and so does every
other record of the port but a FENCE (R41). -/
def EntryRetired (o : SubOutcome) (h : Port) (i : Slot) (n : Nat) (s t : State) : Prop :=
  ∀ (q : ReqRec) (c : Cut) (x : Sub), (s.port h).slot i = some q → (q.kind = .read ∨ q.kind = .write) →
    (q.stage = .awaiting ∨ q.stage = .issuing) → q.cut = some c → c.subs[n]? = some x → x.outcome = none →
    ∃ (q' : ReqRec) (c' : Cut) (fails : Bool) (f : Option (SubOutcome × Nat)),
      fails = (countsAsFailure (s.portPolicy h).errorMap o && q.firstFailure.isNone) ∧
      f = (if fails then some (o, x.offset) else q.firstFailure) ∧
      (t.port h).slot i = some q' ∧ q'.cut = some c' ∧ c'.subs[n]? = some { x with outcome := some o } ∧
      (∀ (k : Nat) (y : Sub), k ≠ n → c.subs[k]? = some y → c'.subs[k]? = some
        (if fails = true ∧ q.stage = .issuing ∧ c.next ≤ k ∧ y.outcome = none
         then { y with outcome := some .cancelled } else y)) ∧
      { q' with stage := q.stage, cut := q.cut, firstFailure := q.firstFailure, status := q.status,
                staging := q.staging } = q ∧
      (if q.stage = .issuing ∧ fails = false then q'.stage = .issuing ∧ q'.firstFailure = f
       else if (∀ y ∈ c'.subs, y.outcome ≠ none) then
         q'.stage = .ready ∧ q'.staging = [] ∧ i ∈ (t.port h).respQ ∧ (f ≠ none → q'.firstFailure = f) ∧
           ∃ st, q'.status = some st ∧ ReadyStatus (s.portPolicy h).errorMap f q.firstPoisoned st
       else q'.stage = .awaiting ∧ q'.firstFailure = f) ∧
      ∀ (j : Slot) (r : ReqRec), j ≠ i → (s.port h).slot j = some r → r.kind ≠ .fence → (t.port h).slot j = some r

/-- Every live subrequest whose tag meets `due` retires with the failure outcome `o` in one event: its entry takes the
outcome; a record without a first failure has left ISSUING, its first failure is at the first of them in list order, and it
enters READY with the map's entry of `o` where no entry is left without an outcome (R86 to R88, R92). -/
def DueRetired (o : SubOutcome) (due : Tag → Bool) (s t : State) : Prop :=
  ∀ (h : Port) (i : Slot) (q : ReqRec) (c : Cut) (n : Nat) (x : Sub) (g : Tag), (s.port h).slot i = some q →
    (q.kind = .read ∨ q.kind = .write) → (q.stage = .awaiting ∨ q.stage = .issuing ∧ n < c.next) → q.cut = some c →
    c.subs[n]? = some x → x.outcome = none → x.tag = some g → liveFor s h i n g = true → due g = true →
    ∃ (q' : ReqRec) (c' : Cut), (t.port h).slot i = some q' ∧ q'.cut = some c' ∧
      c'.subs[n]? = some { x with outcome := some o } ∧
      (q.firstFailure = none → q'.stage ≠ .issuing ∧
        ((∀ (k : Nat) (y : Sub) (u : Tag), k < n → c.subs[k]? = some y → y.outcome = none → y.tag = some u →
            liveFor s h i k u = true → due u = false) → q'.firstFailure = some (o, x.offset)) ∧
        ((∀ (k : Nat) (y : Sub), c.subs[k]? = some y → y.outcome = none →
            (∃ u, y.tag = some u ∧ liveFor s h i k u = true ∧ due u = true) ∨ q.stage = .issuing ∧ c.next ≤ k) →
          q'.stage = .ready ∧ q'.status = some ((s.portPolicy h).errorMap.entry o) ∧ q'.staging = [] ∧
            i ∈ (t.port h).respQ))

/-- What a target lane loss leaves of the ports: the live subrequests retire LINK_DOWN (R95); TARGET_DOWN is pending on
every ACTIVE port (R160); a QUEUED READ, WRITE or POST without a subrequest list stands under HOLD, and under FAIL a READ
or WRITE is READY with UNAVAILABLE, its claim gone, and a POST is dropped (R40, R159). -/
def PortsAfterLoss (s t : State) : Prop :=
  DueRetired .linkDown (fun _ => true) s t ∧
    ∀ (h : Port), ((s.port h).link = .active → (t.port h).noticePending.getLsbD 3 = true) ∧
      ∀ (i : Slot) (q : ReqRec), (s.port h).slot i = some q → q.stage = .queued → q.cut = none → q.kind ≠ .fence →
        ((s.portPolicy h).behaviour = .hold → (t.port h).slot i = some q) ∧
        ((s.portPolicy h).behaviour = .fail →
          (q.kind = .post → (t.port h).slot i = none ∧
            ((s.port h).link = .active → (t.port h).noticePending.getLsbD 2 = true)) ∧
          (q.kind ≠ .post →
            (t.port h).slot i = some { q with stage := .ready, status := some .unavailable, staging := [] } ∧
              i ∈ (t.port h).respQ) ∧
          (q.kind = .read → ∀ c ∈ t.arb.claims, c.1 ≠ h))

/-- The pointer and the burst count after a grant to port `h`: the burst is one more where the pointer stood at `h`, and 1
where the port was found by search; a burst at or above the port's weight takes the pointer past the port, with burst 0
(R65). -/
def PointerMoved (h : Port) (s t : State) : Prop :=
  ∃ b : Nat, b = (if s.arb.pointer = h then s.arb.burst + 1 else 1) ∧
    ((s.portPolicy h).weight ≤ b → t.arb.pointer.val = (h.val + 1) % 4 ∧ t.arb.burst = 0) ∧
    (b < (s.portPolicy h).weight → t.arb.pointer = h ∧ t.arb.burst = b)

/-- The last entries of a log that holds at most 32, in order: those before the event, then those it appends (R164,
R167). -/
def LoggedInOrder (s t : State) (es : List LogEntry) : Prop :=
  s.log.records.length ≤ 32 →
    t.log.records.map (·.entry) =
      (s.log.records.map (·.entry) ++ es).drop (s.log.records.length + es.length - 32) ∧
    t.log.next = s.log.next + BitVec.ofNat 16 es.length

/-- A block after a part reset, but for the carriers, the log and the management port (R189, R190). -/
def PartCleared (s t : State) : Prop :=
  t.hold = none ∧ t.timebase = 0 ∧ t.tags = State.reset.tags ∧ t.buffer = State.reset.buffer ∧
    t.arb = State.reset.arb ∧ t.policy = State.reset.policy ∧ t.events = State.reset.events ∧ t.pending = s.pending

/-- A port after a part reset: its lane in DOWN, and on to WAITING where the host drives carrier (R115, R132). -/
def PortFresh (cut : Option (CutForm × HostPacket)) (p q : PortState) : Prop :=
  q = { PortState.reset with carrier := p.carrier, link := if p.carrier then .waiting else .down, lastCut := cut }

/-- The target lane after a part reset: TRAINING with its first TRAIN where the fabric drives carrier, else DOWN (R148,
R163). -/
def TargetFresh (cut : Option TargetTx) (l m : TargetLane) : Prop :=
  m = { TargetLane.reset with
    carrier := l.carrier, link := if l.carrier then .training 64 else .down, tx := if l.carrier then .train else .idle,
    lastCut := cut }

/-! The stall timer's reports (R127, R140), in the fields of a port -/

/-- A NOTICE is due (R129). -/
abbrev NoticeIsDue (p : PortState) : Prop := p.snapshot = none ∧ p.noticePending &&& p.noticeMask ≠ 0

/-- A RESPONSE is being sent. -/
def SendsResponse (p : PortState) : Prop := ∃ i st id o d, p.tx = some (.response i st id o d)

/-- The head of the response queue, a record that is not being sent (log 10), lacks the header credit or the data credits
that it needs (R124, R127). -/
def HeadLacksCredits (p : PortState) : Prop :=
  ¬ SendsResponse p ∧ ∃ i rest, p.respQ = i :: rest ∧ ∀ r, p.slot i = some r → p.respHdr = 0 ∨
    p.respData < (if r.kind = .read ∧ (r.status = some .ok ∨ r.status = some .poisonedData) then (r.length + 63) / 64 else 0)

/-- A NOTICE or RESPONSE is waiting on credits (R127); a GRANT or an attach answer counts as ahead of it until it has been
sent (log 10). -/
def WaitsOnCredits (p : PortState) : Prop :=
  p.link = .active ∧ p.answer = none ∧ p.retHdr = 0 ∧ p.retData = 0 ∧
    (∀ a b, p.tx ≠ some (.grant a b)) ∧ (∀ a, p.tx ≠ some (.answer a)) ∧
    (NoticeIsDue p ∧ p.respHdr = 0 ∨ ¬ NoticeIsDue p ∧ HeadLacksCredits p)

/-- No NOTICE is due, and the response queue is empty but for the record being sent (R140; log 11). -/
def NothingIsQueued (p : PortState) : Prop :=
  ¬ NoticeIsDue p ∧ (p.respQ = [] ∨ p.respQ.length = 1 ∧ SendsResponse p)

/-- What the reports make of a port's stall timer, by the rows of R140: waiting on credits, the timer runs with its count;
else a timer that is not STOPPED is STOPPED with count 0 where nothing is queued, and PAUSED with its count where something
is. Outside ACTIVE no report is made, and no other field changes. -/
def Reported (p q : PortState) : Prop :=
  q = { p with stallMode := q.stallMode, stallCount := q.stallCount } ∧
    (p.link ≠ .active ∨ ¬ WaitsOnCredits p ∧ p.stallMode = .stopped → q = p) ∧
    (WaitsOnCredits p → q.stallMode = .running ∧ q.stallCount = p.stallCount) ∧
    (p.link = .active → ¬ WaitsOnCredits p → p.stallMode ≠ .stopped →
      (NothingIsQueued p → q.stallMode = .stopped ∧ q.stallCount = 0) ∧
      (¬ NothingIsQueued p → q.stallMode = .paused ∧ q.stallCount = p.stallCount))

/-! The choice of an evaluation (R50, R57 to R59, R62, R65) -/

/-- The record is in the issue order: QUEUED or ISSUING (R26). -/
abbrev WaitsForIssue (r : ReqRec) : Prop := r.stage = .queued ∨ r.stage = .issuing

/-- A port's issue head (R50, R52): the earliest record of the issue order, which is no FENCE; its first piece as the
effective MRS cuts it now, or the piece at its next-to-issue index. -/
def HeadIs (s : State) (h : Port) (x : Head) : Prop :=
  (s.port h).firstInOrder = some x.slot ∧ (s.port h).slot x.slot = some x.record ∧ x.record.kind ≠ .fence ∧
    x.record.target = some x.target ∧ x.cut.subs[x.cut.next]? = some x.piece ∧
    (x.first = false ∧ x.record.cut = some x.cut ∨
      x.first = true ∧ x.record.cut = none ∧
        ∃ m, s.target.effMrs = some m ∧ x.cut = ⟨m, newSubs m x.target x.record.length, 0⟩)

/-- Every condition of R59 on a head but the data-credit count: the session, a header credit, a tag, the block conditions of
R58 for the first piece of a READ, the reshape state, and the data-credit hold. -/
def MayGoButData (s : State) (h : Port) (x : Head) : Prop :=
  (s.port h).link = .active ∧ 1 ≤ s.target.heldHdr ∧ (x.record.kind ≠ .post → tagTest s h = true) ∧
    (x.first = true → x.record.kind = .read →
      (s.port h).reserved + (x.record.length + 63) / 64 ≤ (s.portPolicy h).blockCeiling ∧
        (x.record.length + 63) / 64 ≤ (freeBlocks s).length ∧
        ∀ c, s.arb.claims.head? = some c → c.1 = h ∨ c.2 + (x.record.length + 63) / 64 ≤ (freeBlocks s).length) ∧
    (x.first = true → s.arb.reshape = .idle) ∧
    (x.record.kind ≠ .read → s.arb.dataHold = none ∨ s.arb.dataHold = some (.port h))

/-- The head needs more data credits than the target lane holds (R59, R156). -/
def ShortOfData (s : State) (x : Head) : Prop :=
  x.record.kind ≠ .read ∧ s.target.heldData < (x.piece.length + 63) / 64

end Sys2Proof.Machine
end

