-- ==== Sys2Proof/WellFormed.lean ====
section
/-! DEFINITION. Which commands the part's interfaces can spell: a row that stands for packets or words of one sort carries
only those (R180, R192, R193). The meanings are total and say what they do with the others. -/

namespace Sys2Proof.Machine

/-- A word of the window that only REGISTER_WRITE writes: not COMMAND, EVENT_PENDING or EVENT_ENABLE (R173, R180). -/
def plainAddress (addr : BitVec 16) : Bool :=
  addr != addrCommand && addr != addrEventPending && addr != addrEventEnable

end Sys2Proof.Machine

namespace Sys2Proof

open Machine

/-- A command is well-formed: its operands are ones that its row's interface can spell. -/
def Instr.wellFormed : Instr → Bool
  | .tickEvent => true
  | .deadlineExpiry => true
  | .backoffEnd => true
  | .quarantineEnd => true
  | .drainLimitExpiry => true
  | .drainComplete => true
  | .stallExpiry _ => true
  | .hostCarrierDetect _ => true
  | .hostCarrierLoss _ => true
  | .hostCheckFailure _ => true
  | .hostHoldoffEnd _ => true
  | .attach _ _ _ _ => true
  | .request _ _ _ _ _ _ _ => true
  | .credit _ _ _ => true
  | .noticeAck _ _ => true
  | .hostUnusablePacket _ bytes => hostUnusable bytes
  | .attachAnswerStart _ => true
  | .grantTransmissionStart _ => true
  | .noticeTransmissionStart _ => true
  | .responseTransmissionStart _ => true
  | .responseTransmissionEnd _ => true
  | .grantTransmissionEnd _ => true
  | .hostTransmissionEnd _ => true
  | .targetCarrierDetect => true
  | .targetCarrierLoss => true
  | .targetCheckFailure => true
  | .trainAck _ _ _ => true
  | .trainEndTickExpiry => true
  | .targetHoldoffEnd => true
  | .tcpl _ _ _ _ => true
  | .tcredit _ _ => true
  | .targetUnusablePacket bytes => targetUnusable bytes
  | .treqTransmissionEnd => true
  | .issueGrant => true
  | .retryGrant => true
  | .claimEntry => true
  | .dataCreditHold => true
  | .readCeilingRetire => true
  | .fenceReady _ => true
  | .eventPendingWrite _ => true
  | .eventEnableWrite _ => true
  | .registerWrite addr _ => plainAddress addr
  | .writeFrameDiscard => true
  | .invalidCommand w => !commandInRange w
  | .portReset a => (portOfArg a).isSome
  | .targetReset => true
  | .softReset => true
  | .reshape b => (Mrs.ofBytes b.toNat).isSome
  | .logPop => true
  | .logClear => true
  | .tableFetch a b => (TableIndex.ofArgs a b).isSome
  | .tableCommit a b => (TableIndex.ofArgs a b).isSome
  | .powerOnReset => true
  | .pinReset => true
  | .resetHoldBegin _ => true

end Sys2Proof
end

