-- ==== Sys2Proof/Certificates/Slice0/Obligations.lean ====
section
/-! DEFINITION. The statements for the provers. "Outside the reset hold" is `s.hold = none` throughout. Where a command is
followed by the reports of R127, `report` says what they make of a port's stall timer; it changes nothing else. A result
written as a state with fields replaced also says the frame: every field not named stands. -/

open Sys2Proof Sys2Proof.Machine

/-! ## The machine as a whole -/

/-- A step takes the command at the front of the queue with the queue's rest; on an empty queue it idles (log 2). -/
def Obligations.StepTakesTheFrontCommand : Prop :=
  ∀ (c : Instr) (rest : List Instr) (s : State),
    step { s with pending := c :: rest } = exec c { s with pending := rest } ∧
      step { s with pending := [] } = .next { s with pending := [] }

/-- While request credits and Intake resources balance (R29), no command stops the machine: a held header credit
guarantees a VACANT slot (R25) and held data credits are free staging blocks (R28). No command touches the queue. -/
def Obligations.NoCommandStops : Prop :=
  ∀ (c : Instr) (s : State), CreditsBalance s → ∃ t, exec c s = .next t ∧ t.pending = s.pending

/-- What has one writer: outside the part resets only a tick event moves the timebase (R97), only a commit changes the
policy (R184), only EVENT_ENABLE changes the enable set and only a write to EVENT_PENDING clears an occurrence (R171,
R173); the reset cause changes at part resets alone (R190). -/
def Obligations.GlobalStateHasOneWriter : Prop :=
  ∀ (c : Instr) (s t : State), c.wellFormed = true → exec c s = .next t →
    c ≠ .powerOnReset → c ≠ .pinReset → c ≠ .softReset →
    (c ≠ .tickEvent → t.timebase = s.timebase) ∧ ((∀ a b, c ≠ .tableCommit a b) → t.policy = s.policy) ∧
      ((∀ w, c ≠ .eventEnableWrite w) → t.events.enable = s.events.enable) ∧
      ((∀ w, c ≠ .eventPendingWrite w) → ∀ i : Nat, s.events.occ.getLsbD i = true → t.events.occ.getLsbD i = true) ∧
      t.mgmt.resetCause = s.mgmt.resetCause

/-- The beginning of a reset hold stops every transmission partway, abandons the frame and changes nothing else. In the
hold the part takes no event but the resets that end it; of the carriers only the level is followed (log 16). ALERT_N is
released, the transmitters are off, and no frame is answered on the SPI data output (R189). -/
def Obligations.ResetHoldTakesNoEvent : Prop :=
  (∀ (c : HoldCause) (s : State), s.hold = none →
    ∃ t, exec (.resetHoldBegin c) s = .next t ∧ t.hold = some c ∧
      (∀ h : Port, (t.port h).tx = none ∧
        { t.port h with tx := (s.port h).tx, lastCut := (s.port h).lastCut } = s.port h) ∧
      t.target.tx = .idle ∧ { t.target with tx := s.target.tx, lastCut := s.target.lastCut } = s.target ∧
      t.mgmt = { s.mgmt with frame := .idle } ∧
      { t with hold := s.hold, ports := s.ports, target := s.target, mgmt := s.mgmt } = s) ∧
  ∀ (s : State), s.hold ≠ none →
    (∀ c : Instr, c ≠ .powerOnReset → c ≠ .pinReset → c ≠ .targetCarrierDetect → c ≠ .targetCarrierLoss →
      (∀ h : Port, c ≠ .hostCarrierDetect h ∧ c ≠ .hostCarrierLoss h) → exec c s = .next s) ∧
    (∀ h : Port, exec (.hostCarrierDetect h) s = .next (s.modPort h fun p => { p with carrier := true }) ∧
      exec (.hostCarrierLoss h) s = .next (s.modPort h fun p => { p with carrier := false })) ∧
    exec .targetCarrierDetect s = .next { s with target := { s.target with carrier := true } } ∧
    exec .targetCarrierLoss s = .next { s with target := { s.target with carrier := false } } ∧
    alertLow s = false ∧ targetTransmitterOn s = false ∧ (∀ h : Port, hostTransmitterOn s h = false) ∧
    ∀ (bytes : List Byte) (n : Nat), readFrame s bytes n = none

/-! ## Invariants that every step keeps -/

/-- The balance of request credits of every port (R29). -/
def Obligations.StepKeepsCreditsBalance : Prop :=
  ∀ (s t : State), CreditsBalance s → step s = .next t → CreditsBalance t

/-- A response queue holds each READY record once (R43), and no two records in a port's host ID map carry one ID (R27). -/
def Obligations.StepKeepsResponsesQueued : Prop :=
  ∀ (s t : State), step s = .next t →
    (ResponsesQueued s → ResponsesQueued t) ∧ (HostIdsOnce s → HostIdsOnce t)

/-- The end cause reads NONE exactly while a session is open (R133), and the stall timer follows the session (R136). The
response credits held stay within the declared capacities (R124). -/
def Obligations.StepKeepsSessionsSound : Prop :=
  ∀ (s t : State), step s = .next t →
    (SessionsSound s → SessionsSound t) ∧ (ResponseCreditsFit s → ResponseCreditsFit t)

/-- The retry queue holds exactly the tags whose backoff has ended (R15, R61). -/
def Obligations.StepKeepsRetriesQueued : Prop :=
  ∀ (s t : State), RetriesQueued s → step s = .next t → RetriesQueued t

/-- No block of the Response Buffer is reserved twice (R54), and the claim queue holds no port twice, and so at most four
entries (R57). -/
def Obligations.StepKeepsBufferSound : Prop :=
  ∀ (s t : State), BlocksReservedOnce s → OneClaimPerPort s → step s = .next t →
    BlocksReservedOnce t ∧ OneClaimPerPort t ∧ t.arb.claims.length ≤ 4

/-- Credits held on the target lane lie between 0 and their totals, and the effective MRS is the smaller of the two sizes
(R155, R156); that it is so also after a drain completed outside UP is DESIGN CHOICE, log 31. A TREQ is sent in UP alone
(R154, R158); that a TRAIN is sent in TRAINING alone is DESIGN CHOICE, log 22, where R151 sends whole one that a TRAIN_ACK
meets. -/
def Obligations.StepKeepsTargetSound : Prop :=
  ∀ (s t : State), TargetSound s → step s = .next t → TargetSound t

/-- The records of the log carry consecutive sequence numbers, and there are at most 32 (R164). The occurrence bits hold
nothing in the places of the two conditions (R172, R173). -/
def Obligations.StepKeepsLogOrdered : Prop :=
  ∀ (s t : State), step s = .next t → (LogOrdered s → LogOrdered t) ∧ (OccurrencesAlone s → OccurrencesAlone t)

/-- Every committed policy record lies in its ranges (R184 to R187). -/
def Obligations.StepKeepsPolicyInRange : Prop :=
  ∀ (s t : State), PolicyInRange s → step s = .next t → PolicyInRange t

/-- The byte memories keep their canonical form. The form, with 0 as the value of an unlisted byte, is the model's own:
DESIGN CHOICE, log 15; no rule of the spec gives it. -/
def Obligations.StepKeepsMemoriesCanonical : Prop :=
  ∀ (s t : State), MemoriesCanonical s → step s = .next t → MemoriesCanonical t

/-- The state after reset meets every invariant above, and every word of the register window reads, after a power-on reset
with no carrier on any lane, what 11.6 gives. That State.reset is a power-on reset without carriers is DESIGN CHOICE, logs
16 and 28; the memories' form is log 15's. -/
def Obligations.ResetIsSound : Prop :=
  (CreditsBalance State.reset ∧ ResponsesQueued State.reset ∧ SessionsSound State.reset ∧ RetriesQueued State.reset ∧
    BlocksReservedOnce State.reset ∧ OneClaimPerPort State.reset ∧ TargetSound State.reset ∧ LogOrdered State.reset ∧
    PolicyInRange State.reset ∧ MemoriesCanonical State.reset ∧ HostIdsOnce State.reset ∧
    ResponseCreditsFit State.reset ∧ OccurrencesAlone State.reset) ∧
  ∀ a : BitVec 16, readWord State.reset a =
    if a = 0x003 then 0x1000 else if a = 0x011 then 0x80 else if a = 0x012 then 0x100 else if a = 0x017 then 0x80
    else if a = 0x020 ∨ a = 0x028 ∨ a = 0x030 ∨ a = 0x038 then 0x10000 else 0

/-! ## Resets of the whole part -/

/-- A power-on or pin reset ends the hold with every block at its part reset values, the cause recorded and the log empty
(R189, R176). Clauses that are the model's choice: the carriers keep their levels (log 16); the reset is also taken where no
hold has begun, and a hold that the other cause began is not ended by it (log 17); the bytes of the Response Buffer and of
the staging areas, whose contents the spec does not give at reset, read 0 (log 15). SOFT_RESET clears every block, keeps the
log's records and next sequence number, empties the view, and writes the cause SOFT and the result DONE (R190); a packet
being sent to a host is closed with a bad check sequence (R132; on a lane that is not ACTIVE by log 14), and one being sent
on the target lane is cut short (R157; in a form by log 32). -/
def Obligations.PartResetsClearThePart : Prop :=
  ∀ (s : State),
    (s.hold ≠ some .pin → ∃ t, exec .powerOnReset s = .next t ∧ PartCleared s t ∧ t.log = State.reset.log ∧
      t.mgmt = { State.reset.mgmt with resetCause := .powerOn } ∧ TargetFresh none s.target t.target ∧
      ∀ h : Port, PortFresh none (s.port h) (t.port h)) ∧
    (s.hold ≠ some .power → ∃ t, exec .pinReset s = .next t ∧ PartCleared s t ∧ t.log = State.reset.log ∧
      t.mgmt = { State.reset.mgmt with resetCause := .pin } ∧ TargetFresh none s.target t.target ∧
      ∀ h : Port, PortFresh none (s.port h) (t.port h)) ∧
    (s.hold = some .pin → exec .powerOnReset s = .next s) ∧ (s.hold = some .power → exec .pinReset s = .next s) ∧
    (s.hold = none →
      ∃ t, exec .softReset s = .next t ∧ PartCleared s t ∧ t.log = { s.log with view := none } ∧
        t.mgmt = { State.reset.mgmt with resetCause := .soft, lastCommand := 3, result := .done } ∧
        TargetFresh (match s.target.tx with | .idle => s.target.lastCut | k => some k) s.target t.target ∧
        ∀ h : Port, PortFresh (match (s.port h).tx with | some k => some (.closed, k) | none => (s.port h).lastCut)
          (s.port h) (t.port h))

/-! ## The register window and the commands of the management port -/

/-- A write to EVENT_PENDING clears each occurrence bit written 1; a write to EVENT_ENABLE replaces the enable set, bits
31:16 ignored (R173, R195). -/
def Obligations.EventWritesActByBit : Prop :=
  ∀ (w : Word) (s : State), s.hold = none →
    (∃ t, exec (.eventPendingWrite w) s = .next t ∧
      (∀ i : Fin 16, t.events.occ.getLsbD i.val = (s.events.occ.getLsbD i.val && !w.getLsbD i.val)) ∧
      t.events.enable = s.events.enable ∧ t.mgmt = { s.mgmt with frame := .idle } ∧
      { t with events := s.events, mgmt := s.mgmt } = s) ∧
    (∃ t, exec (.eventEnableWrite w) s = .next t ∧
      (∀ i : Fin 16, t.events.enable.getLsbD i.val = w.getLsbD i.val) ∧
      t.events.occ = s.events.occ ∧ t.mgmt = { s.mgmt with frame := .idle } ∧
      { t with events := s.events, mgmt := s.mgmt } = s)

/-- A write to a staging word is stored whole and reads back; a write to any other plain address, read-only or
unassigned, is discarded (R179, R197). A write frame that ended early writes nothing and leaves COMMAND_RESULT (R178); a
command word that is unknown or out of range is answered INVALID with its code as written and does nothing else (R180,
R195). -/
def Obligations.RegisterWritesAndDiscards : Prop :=
  ∀ (s : State), s.hold = none →
    (∀ (addr : BitVec 16) (w : Word), plainAddress addr = true →
      (∀ i : Fin 16, addr.toNat = 0x40 + i.val →
        ∃ t, exec (.registerWrite addr w) s = .next t ∧ readWord t addr = w ∧
          (∀ a : BitVec 16, a ≠ addr → readWord t a = readWord s a) ∧
          { t with mgmt := s.mgmt } = s) ∧
      ((addr.toNat < 0x40 ∨ 0x50 ≤ addr.toNat) →
        exec (.registerWrite addr w) s = .next { s with mgmt := { s.mgmt with frame := .idle } })) ∧
    exec .writeFrameDiscard s = .next { s with mgmt := { s.mgmt with frame := .idle } } ∧
    (∀ w : Word, commandInRange w = false → exec (.invalidCommand w) s =
      .next { s with mgmt := { s.mgmt with lastCommand := w.extractLsb' 0 8, result := .invalid, frame := .idle } }) ∧
    (∀ a : BitVec 8, 4 ≤ a.toNat → exec (.portReset a) s =
      .next { s with mgmt := { s.mgmt with lastCommand := 1, result := .invalid, frame := .idle } }) ∧
    (∀ b : BitVec 16, b.toNat ≠ 64 → b.toNat ≠ 128 → b.toNat ≠ 256 → b.toNat ≠ 512 → exec (.reshape b) s =
      .next { s with mgmt := { s.mgmt with lastCommand := 4, result := .invalid, frame := .idle } })

/-- LOG_POP moves the oldest record into the log view, and empties the view where the list is empty; the next sequence
number stands, an empty view reads 0, and a write to the view is ignored (R168). -/
def Obligations.LogPopTakesTheOldest : Prop :=
  ∀ (s : State), s.hold = none →
    ∃ t, exec .logPop s = .next t ∧ t.log.view = s.log.records.head? ∧ t.log.records = s.log.records.tail ∧
      t.log.next = s.log.next ∧
      (∀ (r : LogRec), s.log.records.head? = some r →
        ∀ i : Fin 7, readWord t (8 + BitVec.ofNat 16 i.val) = r.words.getD i.val 0) ∧
      (s.log.records = [] → ∀ i : Fin 7, readWord t (8 + BitVec.ofNat 16 i.val) = 0) ∧
      t.mgmt = { s.mgmt with lastCommand := 5, result := .done, frame := .idle } ∧
      { t with log := s.log, mgmt := s.mgmt } = s ∧
      ∀ (i : Fin 7) (w : Word), exec (.registerWrite (8 + BitVec.ofNat 16 i.val) w) s =
        .next { s with mgmt := { s.mgmt with frame := .idle } }

/-- LOG_CLEAR removes every record; the next sequence number and the view stand, no LOG_OVERWRITE is raised and no record
is made (R169). -/
def Obligations.LogClearEmptiesTheList : Prop :=
  ∀ (s : State), s.hold = none →
    exec .logClear s = .next
      { s with log := { s.log with records := [] },
               mgmt := { s.mgmt with lastCommand := 6, result := .done, frame := .idle } }

/-- An append takes the next sequence number and the present tick at the tail; on a full list it removes the oldest and
raises LOG_OVERWRITE (R164, R167). -/
def Obligations.AppendGoesToTheTail : Prop :=
  ∀ (e : LogEntry) (s : State),
    (s.log.records.length < 32 → appendLog e s =
      { s with log := { records := s.log.records ++ [⟨s.log.next, s.timebase, e⟩], next := s.log.next + 1,
                        view := s.log.view } }) ∧
    (32 ≤ s.log.records.length → appendLog e s =
      { s with log := { records := s.log.records.tail ++ [⟨s.log.next, s.timebase, e⟩], next := s.log.next + 1,
                        view := s.log.view },
               events := { s.events with occ := s.events.occ ||| 0x8000 } })

/-- TABLE_FETCH copies the committed record into the staging area, replaces all of it, and changes no policy (R182); a
table code or index out of range is INVALID. -/
def Obligations.FetchFillsStaging : Prop :=
  ∀ (a : BitVec 8) (b : BitVec 16) (s : State), s.hold = none →
    (∀ x, TableIndex.ofArgs a b = some x → exec (.tableFetch a b) s = .next
      { s with mgmt := { s.mgmt with staging := fetched x s, lastCommand := 7, result := .done, frame := .idle } }) ∧
    (∀ h : Port, a = 1 → b.toNat = h.val → TableIndex.ofArgs a b = some (.port h)) ∧
    (∀ i : Fin 16, a = 2 → b.toNat = i.val → TableIndex.ofArgs a b = some (.window i)) ∧
    (a = 3 → b = 0 → TableIndex.ofArgs a b = some .global) ∧
    ((a ≠ 1 ∨ 4 ≤ b.toNat) → (a ≠ 2 ∨ 16 ≤ b.toNat) → (a ≠ 3 ∨ b ≠ 0) →
      TableIndex.ofArgs a b = none ∧ exec (.tableFetch a b) s =
        .next { s with mgmt := { s.mgmt with lastCommand := 7, result := .invalid, frame := .idle } })

/-- What TABLE_FETCH stages is the committed record: every field goes to its place and is read back from it (R182, R197).
For a port record this needs its values in range; window records are kept whatever they hold (R186). -/
def Obligations.FetchedRecordReadsBack : Prop :=
  (∀ p : PortPolicy, p.inRange = true → p.errorMap.allowed → stagedPort (stagePort p) = some p) ∧
    (∀ w : Window, stagedWindow (stageWindow w) = w) ∧
    (∀ g : GlobalPolicy, g.inRange → stagedGlobal (stageGlobal g) = some g)

/-- A commit of a port record, of a window or of the global record that passes validation replaces the record whole;
POLICY_CHANGED is raised for the port where a field changed (R183, R188). A port record that disables its port deals with
the lane: an ACTIVE lane takes a port reset with cause PORT_DISABLED, a FENCED one goes to HOLDOFF, and every other lane
stands; no notice is raised (R120, R188). -/
def Obligations.CommitReplacesTheRecord : Prop :=
  ∀ (s : State), s.hold = none →
    (∀ (h : Port) (p : PortPolicy), stagedPort s.mgmt.staging = some p → floorsFit s h p.floor = true →
      p.enabled = true →
      ∃ t, exec (.tableCommit 1 (BitVec.ofNat 16 h.val)) s = .next t ∧
        t.policy = { s.policy with ports := s.policy.ports.set h.val p } ∧
        t.mgmt = { s.mgmt with lastCommand := 8, result := .done, frame := .idle } ∧
        t.port h = report (if p = s.portPolicy h then s.port h else raiseNotice noticePolicyChanged (s.port h)) ∧
        (∀ g, g ≠ h → t.port g = report (s.port g)) ∧
        { t with policy := s.policy, mgmt := s.mgmt, ports := s.ports } = s) ∧
    (∀ (h : Port) (p : PortPolicy) (u : State), stagedPort s.mgmt.staging = some p → floorsFit s h p.floor = true →
      p.enabled = false → u = { s with policy := { s.policy with ports := s.policy.ports.set h.val p } } →
      ∃ t, exec (.tableCommit 1 (BitVec.ofNat 16 h.val)) s = .next t ∧ t.policy = u.policy ∧
        t.mgmt = { s.mgmt with lastCommand := 8, result := .done, frame := .idle } ∧
        (∀ g, g ≠ h → t.port g = report (s.port g)) ∧
        ((s.port h).link = .active →
          PortCleared (.holdoff (s.timebase + 64)) .portDisabled (s.port h) (t.port h) ∧ PortLeft h u t ∧
            LastLogged s t { kind := .sessionEnd, port := some h, session := some (s.port h).session,
                             detail := some 8 }) ∧
        ((s.port h).link = .fenced → (t.port h).link = .holdoff (s.timebase + 64) ∧ (t.port h).answer = none ∧
          (t.port h).tx = none ∧
          { t.port h with link := (s.port h).link, answer := (s.port h).answer, tx := (s.port h).tx,
                          lastCut := (s.port h).lastCut } = s.port h ∧
          { t with policy := s.policy, mgmt := s.mgmt, ports := s.ports } = s) ∧
        ((s.port h).link ≠ .active → (s.port h).link ≠ .fenced → t.port h = s.port h ∧
          { t with policy := s.policy, mgmt := s.mgmt, ports := s.ports } = s)) ∧
    (∀ i : Fin 16, (stagedWindow s.mgmt.staging).valid = true →
      ∃ t, exec (.tableCommit 2 (BitVec.ofNat 16 i.val)) s = .next t ∧
        t.policy = { s.policy with windows := s.policy.windows.set i.val (stagedWindow s.mgmt.staging) } ∧
        t.mgmt = { s.mgmt with lastCommand := 8, result := .done, frame := .idle } ∧
        (∀ g : Port, t.port g = report
          (if g.val = i.val / 4 ∧ stagedWindow s.mgmt.staging ≠ s.policy.windows[i.val]
           then raiseNotice noticePolicyChanged (s.port g) else s.port g)) ∧
        { t with policy := s.policy, mgmt := s.mgmt, ports := s.ports } = s) ∧
    (∀ g : GlobalPolicy, stagedGlobal s.mgmt.staging = some g →
      ∃ t, exec (.tableCommit 3 0) s = .next t ∧ t.policy = { s.policy with global := g } ∧
        t.mgmt = { s.mgmt with lastCommand := 8, result := .done, frame := .idle } ∧
        (∀ h : Port, t.port h = report (s.port h)) ∧
        { t with policy := s.policy, mgmt := s.mgmt, ports := s.ports } = s)

/-- A commit whose staged record fails, or whose table code or index is out of range, is answered INVALID, and no policy
changes (R182, R183, R187). -/
def Obligations.RefusedCommitChangesNothing : Prop :=
  ∀ (s : State), s.hold = none →
    (∀ h : Port, (∀ p, stagedPort s.mgmt.staging = some p → floorsFit s h p.floor = false) →
      ∃ t, exec (.tableCommit 1 (BitVec.ofNat 16 h.val)) s = .next t ∧
        t.mgmt = { s.mgmt with lastCommand := 8, result := .invalid, frame := .idle } ∧
        (∀ g : Port, t.port g = report (s.port g)) ∧ { t with mgmt := s.mgmt, ports := s.ports } = s) ∧
    (∀ i : Fin 16, (stagedWindow s.mgmt.staging).valid = false →
      ∃ t, exec (.tableCommit 2 (BitVec.ofNat 16 i.val)) s = .next t ∧
        t.mgmt = { s.mgmt with lastCommand := 8, result := .invalid, frame := .idle } ∧
        (∀ g : Port, t.port g = report (s.port g)) ∧ { t with mgmt := s.mgmt, ports := s.ports } = s) ∧
    (∀ (a : BitVec 8) (b : BitVec 16),
      (TableIndex.ofArgs a b = none ∨
        (a = 3 ∧ b = 0 ∧ (field s.mgmt.staging[0] 16 8 = 0 ∨ field s.mgmt.staging[1] 0 16 = 0))) →
      ∃ t, exec (.tableCommit a b) s = .next t ∧
        t.mgmt = { s.mgmt with lastCommand := 8, result := .invalid, frame := .idle } ∧
        (∀ g : Port, t.port g = report (s.port g)) ∧ { t with mgmt := s.mgmt, ports := s.ports } = s)

/-- PORT_RESET by the lane's state: a port reset with cause MGMT_RESET in ACTIVE, HOLDOFF from WAITING and FENCED, and
nothing in DOWN and HOLDOFF; DONE in each (R138, R181). -/
def Obligations.PortResetCommandByLaneState : Prop :=
  ∀ (h : Port) (s : State), s.hold = none →
    ∃ t, exec (.portReset (BitVec.ofNat 8 h.val)) s = .next t ∧
      t.mgmt = { s.mgmt with lastCommand := 1, result := .done, frame := .idle } ∧
      (∀ g, g ≠ h → t.port g = s.port g) ∧
      ((s.port h).link = .active →
        PortCleared (.holdoff (s.timebase + 64)) .mgmtReset (s.port h) (t.port h) ∧ PortLeft h s t) ∧
      ((s.port h).link = .waiting ∨ (s.port h).link = .fenced →
        (t.port h).link = .holdoff (s.timebase + 64) ∧ (t.port h).answer = none ∧ (t.port h).tx = none ∧
          { t.port h with link := (s.port h).link, answer := (s.port h).answer, tx := (s.port h).tx,
                          lastCut := (s.port h).lastCut } = s.port h ∧
          { t with mgmt := s.mgmt, ports := s.ports } = s) ∧
      ((s.port h).link ≠ .active → (s.port h).link ≠ .waiting → (s.port h).link ≠ .fenced →
        { t with mgmt := s.mgmt } = s)

/-- RESHAPE: BUSY while DRAINING; in IDLE the drain starts with its limit recorded, a hold for a first subrequest ends, and
the drain completes at once where nothing has to drain (R66, R68, R181). That the effective MRS is then formed again also
while the lane is not UP is DESIGN CHOICE, log 31. -/
def Obligations.ReshapeStartsADrain : Prop :=
  ∀ (b : BitVec 16) (m : Mrs) (s : State), s.hold = none → b.toNat = m.bytes →
    (∀ x y z, s.arb.reshape = .draining x y z → exec (.reshape b) s =
      .next { s with mgmt := { s.mgmt with lastCommand := 4, result := .busy, frame := .idle } }) ∧
    (s.arb.reshape = .idle → drainClear s = false → exec (.reshape b) s = .next
      { s with arb := { s.arb with reshape := .draining m s.timebase s.policy.global.reshapeLimit,
                                   dataHold := if holdsForFirst s then none else s.arb.dataHold },
               mgmt := { s.mgmt with lastCommand := 4, result := .done, frame := .idle } }) ∧
    (s.arb.reshape = .idle → drainClear s = true → exec (.reshape b) s = .next
      { s with arb := { s.arb with configuredMrs := m, outcome := .done,
                                   dataHold := if holdsForFirst s then none else s.arb.dataHold },
               target := { s.target with effMrs := s.target.maxReq.map m.smaller },
               events := { s.events with occ := s.events.occ ||| 0x2000 },
               mgmt := { s.mgmt with lastCommand := 4, result := .done, frame := .idle } })

/-! ## Time -/

/-- A tick event raises the timebase by one (R97); where nothing is due from the tick before it, it also counts the
RUNNING stall timers up to 65,535 (R141) and does nothing else but note which stall expiry is due (log 12). An end tick set
for `d` ticks is reached, `k` ticks later, exactly when `k` is at least `d`, whatever the timebase stood at and whether or
not it has wrapped (R98). -/
def Obligations.TickAdvancesTheTimebase : Prop :=
  (∀ (s : State), s.hold = none →
    ∃ t, exec .tickEvent s = .next t ∧ t.timebase = s.timebase + 1 ∧
      (NothingDue s →
        (∀ h : Port, t.port h = stallTick (s.portPolicy h).stallWindow (report (s.port h)) ∧
          (t.port h).stallMode = (report (s.port h)).stallMode ∧
          (t.port h).stallCount = (if (t.port h).stallMode = .running
            then min 65535 ((report (s.port h)).stallCount + 1) else (report (s.port h)).stallCount)) ∧
        { t with timebase := s.timebase, ports := s.ports } = s)) ∧
  ∀ (now : Tick) (d k : Nat), 1 ≤ d → d ≤ 65535 → k < 2 ^ 31 →
    (reached (now + BitVec.ofNat 32 k) (after now d) = true ↔ d ≤ k)

/-- What DEADLINE_EXPIRY does to each tag: one whose deadline is reached lapses for the quarantine period, or goes FREE
where the period is 0; in BACKOFF it goes FREE and leaves the retry queue; every other tag stands (R13, R14, R106). The
live subrequests of the tags that are due retire TIMEOUT (R13, R14, R86). A TIMEOUT_LAPSE record for each live tag and an
ORPHAN_LAPSE record for each orphan that lapses go to the log in ascending tag order, and none for a tag in BACKOFF (R21,
R99, R101). -/
def Obligations.DeadlineExpiryByTag : Prop :=
  ∀ (s : State), s.hold = none →
    ∃ t, exec .deadlineExpiry s = .next t ∧ t.timebase = s.timebase ∧ t.policy = s.policy ∧ t.buffer = s.buffer ∧
      (∀ x : Tag,
        (deadlineDue s x = false → t.tagRec x = s.tagRec x) ∧
        ∀ r, s.tagRec x = some r → deadlineDue s x = true →
          (r.isBackoff = true → t.tagRec x = none ∧ x ∉ t.arb.retryQ) ∧
          (r.isBackoff = false → s.policy.global.quarantine = 0 → t.tagRec x = none) ∧
          (r.isBackoff = false → s.policy.global.quarantine ≠ 0 →
            t.tagRec x = some { r with phase := .lapsed (after s.timebase s.policy.global.quarantine) })) ∧
      DueRetired .timeout (deadlineDue s) s t ∧
      LoggedInOrder s t (allTags.filterMap fun x =>
        match s.tagRec x with
        | none => none
        | some r =>
          if deadlineDue s x = false ∨ r.isBackoff = true then none
          else if r.orphaned = true then
            some { kind := .orphanLapse, port := some r.port, tag := some x, session := some r.session,
                   length := some r.length, address := some (.target r.addr) }
          else
            some { kind := .timeoutLapse, port := some r.port, tag := some x,
                   hostId := ((s.port r.port).slot r.slot).bind (·.hostId), session := some r.session,
                   cls := ((s.port r.port).slot r.slot).map (·.cls), length := some r.length,
                   address := some (.target r.addr) })

/-- BACKOFF_END: the tags whose backoff the tick ends stay in BACKOFF and join the tail of the retry queue in ascending
order; nothing else changes (R15, R99, R103). QUARANTINE_END: the tags in LAPSED whose quarantine the tick ends go FREE; no
log record, no event, and no request record is touched (R16, R107). -/
def Obligations.BackoffAndQuarantineEnd : Prop :=
  ∀ (s : State), s.hold = none →
    (∃ t, exec .backoffEnd s = .next t ∧
      t.arb = { s.arb with retryQ := s.arb.retryQ ++ allTags.filter (backoffDue s) } ∧
      (∀ x : Tag, backoffDue s x = false → t.tagRec x = s.tagRec x) ∧
      (∀ (x : Tag) (r : TagRec) (d : Tick), backoffDue s x = true → s.tagRec x = some r → r.deadline = some d →
        t.tagRec x = some { r with phase := .backoff d none }) ∧
      { t with arb := s.arb, tags := s.tags } = s) ∧
    ∃ t, exec .quarantineEnd s = .next t ∧
      (∀ x : Tag, t.tagRec x = if quarantineDue s x then none else s.tagRec x) ∧ { t with tags := s.tags } = s

/-- DRAIN_LIMIT_EXPIRY ends a drain whose limit is reached ABORTED, with the configured MRS unchanged (R69);
DRAIN_COMPLETE ends a drain that has nothing left to wait for DONE (R68, R155). That the effective MRS is then formed again
also while the lane is not UP is DESIGN CHOICE, log 31. -/
def Obligations.DrainEnds : Prop :=
  ∀ (s : State) (m : Mrs) (start : Tick) (limit : Nat), s.hold = none → s.arb.reshape = .draining m start limit →
    (limit ≤ (s.timebase - start).toNat →
      ∃ t, exec .drainLimitExpiry s = .next t ∧ t.arb = { s.arb with outcome := .aborted, reshape := .idle } ∧
        LastLogged s t { kind := .reshapeAborted, detail := some m.bytes } ∧
        t.events.occ.getLsbD eventReshapeEnd = true ∧
        { t with arb := s.arb, log := s.log, events := s.events } = s) ∧
    ((s.timebase - start).toNat < limit → exec .drainLimitExpiry s = .next s) ∧
    (drainClear s = true → exec .drainComplete s = .next
      { s with arb := { s.arb with configuredMrs := m, outcome := .done, reshape := .idle },
               target := { s.target with effMrs := s.target.maxReq.map m.smaller },
               events := { s.events with occ := s.events.occ ||| 0x2000 } }) ∧
    (drainClear s = false → exec .drainComplete s = .next s)

/-- A stall expiry that is due by its stall action: NOTE logs, raises STALL and sets the count to 0; FENCE and RESET take
a port reset after the STALL_ACTION record (R142 to R144). That it is due is read from stallDue, a bit of the model's own
that the tick sets and the expiry clears: DESIGN CHOICE, log 12. -/
def Obligations.StallExpiryByAction : Prop :=
  ∀ (h : Port) (s : State), s.hold = none → stallExpiryDue s h = true →
    ∃ t, exec (.stallExpiry h) s = .next t ∧ t.events.occ.getLsbD (8 + h.val) = true ∧
      (∀ g, g ≠ h → t.port g = s.port g) ∧
      ((s.portPolicy h).stallAction = .note →
        t.port h = { s.port h with stallCount := 0, stallDue := false } ∧
          LastLogged s t { kind := .stallAction, port := some h, session := some (s.port h).session,
                           detail := some 0 } ∧
          LoggedInOrder s t [{ kind := .stallAction, port := some h, session := some (s.port h).session,
                               detail := some 0 }] ∧
          { t with ports := s.ports, log := s.log, events := s.events } = s) ∧
      ((s.portPolicy h).stallAction = .fence → PortCleared .fenced .stallFence (s.port h) (t.port h) ∧
        PortLeft h s t ∧
          LastLogged s t { kind := .sessionEnd, port := some h, session := some (s.port h).session, detail := some 6 } ∧
          LoggedInOrder s t
            [{ kind := .stallAction, port := some h, session := some (s.port h).session, detail := some 1 },
             { kind := .sessionEnd, port := some h, session := some (s.port h).session, detail := some 6 }]) ∧
      ((s.portPolicy h).stallAction = .reset →
        PortCleared (.holdoff (s.timebase + 64)) .stallReset (s.port h) (t.port h) ∧ PortLeft h s t ∧
          LastLogged s t { kind := .sessionEnd, port := some h, session := some (s.port h).session, detail := some 7 } ∧
          LoggedInOrder s t
            [{ kind := .stallAction, port := some h, session := some (s.port h).session, detail := some 2 },
             { kind := .sessionEnd, port := some h, session := some (s.port h).session, detail := some 7 }])

/-! ## Host lanes and sessions -/

/-- Carrier at a host lane: detection takes DOWN to WAITING; loss takes WAITING and FENCED to DOWN and an ACTIVE port
through a port reset with cause LINK_LOSS; in HOLDOFF only the level is followed (R115, R117). A check sequence failure
takes WAITING and FENCED to HOLDOFF for 64 ticks and an ACTIVE port through a port reset with cause LINK_ERROR; HOLDOFF
ignores it (R117, R118). In DOWN, where no loss and no check failure arrives, the model follows the level and changes
nothing else (DEDUCED, log 1). At its end tick HOLDOFF ends in DOWN, or in WAITING where the host drives carrier; before it,
and in every other state, HOST_HOLDOFF_END changes nothing (R118). -/
def Obligations.HostLaneMoves : Prop :=
  ∀ (h : Port) (s : State), s.hold = none →
    (∃ t, exec (.hostCarrierDetect h) s = .next t ∧
      t.port h = { s.port h with carrier := true,
                                 link := if (s.port h).link = .down then .waiting else (s.port h).link } ∧
      (∀ g, g ≠ h → t.port g = s.port g) ∧ { t with ports := s.ports } = s) ∧
    (∃ t, exec (.hostCarrierLoss h) s = .next t ∧ (∀ g, g ≠ h → t.port g = s.port g) ∧
      (t.port h).carrier = false ∧
      ((s.port h).link = .active →
        PortCleared .down .linkLoss { s.port h with carrier := false } (t.port h) ∧ PortLeft h s t) ∧
      ((s.port h).link = .waiting ∨ (s.port h).link = .fenced → (t.port h).link = .down ∧
        (t.port h).answer = none ∧ { t with ports := s.ports } = s) ∧
      ((s.port h).link ≠ .active → (s.port h).link ≠ .waiting → (s.port h).link ≠ .fenced →
        t.port h = { s.port h with carrier := false } ∧ { t with ports := s.ports } = s)) ∧
    (∃ t, exec (.hostCheckFailure h) s = .next t ∧ (∀ g, g ≠ h → t.port g = s.port g) ∧
      ((s.port h).link = .active → PortCleared (.holdoff (s.timebase + 64)) .linkError (s.port h) (t.port h) ∧
        PortLeft h s t ∧ LastLogged s t { kind := .sessionEnd, port := some h, session := some (s.port h).session,
                                          detail := some 4 }) ∧
      ((s.port h).link = .waiting ∨ (s.port h).link = .fenced →
        (t.port h).link = .holdoff (s.timebase + 64) ∧ (t.port h).tx = none ∧ (t.port h).answer = none ∧
          { t with ports := s.ports } = s) ∧
      ((s.port h).link ≠ .active → (s.port h).link ≠ .waiting → (s.port h).link ≠ .fenced → t = s)) ∧
    (∀ e, (s.port h).link = .holdoff e → reached s.timebase e = true →
      ∃ t, exec (.hostHoldoffEnd h) s = .next t ∧
        t.port h = { s.port h with link := if (s.port h).carrier then .waiting else .down, answer := none } ∧
        (∀ g, g ≠ h → t.port g = s.port g) ∧ { t with ports := s.ports } = s) ∧
    ((∀ e, (s.port h).link = .holdoff e → reached s.timebase e = false) → exec (.hostHoldoffEnd h) s = .next s)

/-- An ATTACH in WAITING or FENCED on an enabled port, with capacities in range, opens the next session with full request
credits, the declared response credits and an ATTACH_ACK pending that reports the last end cause; LINK_UP is raised
(R119, R134), and the transmitter is free (R126); an ATTACH_NAK that was being sent is closed, by DESIGN CHOICE, log 14. It
is refused with DISABLED on a disabled port and with RANGE where a capacity is out of range: the lane is WAITING and an
ATTACH_NAK is pending (R119). In HOLDOFF an ATTACH is discarded (R116); in DOWN, where none arrives, the model discards one
too (DEDUCED, log 1). -/
def Obligations.AttachOpensASession : Prop :=
  (∀ (h : Port) (mask : NoticeBits) (hdr : BitVec 8) (data : BitVec 16) (s : State), s.hold = none →
    ((s.port h).link = .waiting ∨ (s.port h).link = .fenced) → (s.portPolicy h).enabled = true →
    1 ≤ hdr.toNat → hdr.toNat ≤ 64 → 8 ≤ data.toNat → data.toNat ≤ 1024 →
    ∃ t n, exec (.attach h mask hdr data) s = .next t ∧
      n = (if (s.port h).session < 255 then (s.port h).session + 1 else 1) ∧
      t.port h = { s.port h with
        link := .active, session := n, endCause := .none, stallMode := .stopped, stallCount := 0,
        capHdr := hdr.toNat, capData := data.toNat, respHdr := hdr.toNat, respData := data.toNat,
        noticeMask := mask, noticePending := if s.target.link = .up then 0 else noticeTargetDown, snapshot := none,
        reqHdr := 16, reqData := 16, retHdr := 0, retData := 0, tx := none,
        lastCut := (match (s.port h).tx with | some k => some (.closed, k) | none => (s.port h).lastCut),
        answer := some (.ack n (s.port h).endCause) } ∧
      (∀ g, g ≠ h → t.port g = report (s.port g)) ∧
      t.events = { s.events with occ := s.events.occ ||| (1#16 <<< h.val) } ∧
      { t with ports := s.ports, events := s.events } = s) ∧
  ∀ (h : Port) (mask : NoticeBits) (hdr : BitVec 8) (data : BitVec 16) (s : State), s.hold = none →
    (∀ c : NakCause, ((s.port h).link = .waiting ∨ (s.port h).link = .fenced) →
      ((s.portPolicy h).enabled = false ∧ c = .disabled ∨
        (s.portPolicy h).enabled = true ∧ c = .range ∧
          ¬ (1 ≤ hdr.toNat ∧ hdr.toNat ≤ 64 ∧ 8 ≤ data.toNat ∧ data.toNat ≤ 1024)) →
      ∃ t, exec (.attach h mask hdr data) s = .next t ∧
        t.port h = { s.port h with link := .waiting, answer := some (.nak c) } ∧
        (∀ g, g ≠ h → t.port g = report (s.port g)) ∧ { t with ports := s.ports } = s) ∧
    ((s.port h).link ≠ .waiting → (s.port h).link ≠ .fenced → (s.port h).link ≠ .active →
      ∃ t, exec (.attach h mask hdr data) s = .next t ∧ (∀ g : Port, t.port g = report (s.port g)) ∧
        { t with ports := s.ports } = s)

/-- An ATTACH in ACTIVE is a retrain: the session ends with RETRAIN, its records go and its tags are orphaned, and the
next session opens in the same event, or an ATTACH_NAK with DISABLED or RANGE is pending and the lane is WAITING (R119,
R121, R137). -/
def Obligations.RetrainEndsAndReopens : Prop :=
  ∀ (h : Port) (mask : NoticeBits) (hdr : BitVec 8) (data : BitVec 16) (s : State), s.hold = none →
    (s.port h).link = .active →
    ∃ t, exec (.attach h mask hdr data) s = .next t ∧ PortLeft h s t ∧
      LastLogged s t { kind := .sessionEnd, port := some h, session := some (s.port h).session, detail := some 2 } ∧
      (∀ i : Slot, (t.port h).slot i = none) ∧ (t.port h).respQ = [] ∧
      ((s.portPolicy h).enabled = true → 1 ≤ hdr.toNat → hdr.toNat ≤ 64 → 8 ≤ data.toNat → data.toNat ≤ 1024 →
        (t.port h).link = .active ∧ (t.port h).session = nextSession (s.port h).session ∧
          (t.port h).answer = some (.ack (nextSession (s.port h).session) .retrain) ∧
          t.events.occ.getLsbD h.val = true) ∧
      ((s.portPolicy h).enabled = false → (t.port h).link = .waiting ∧ (t.port h).endCause = .retrain ∧
        (t.port h).answer = some (.nak .disabled)) ∧
      ((s.portPolicy h).enabled = true →
        ¬ (1 ≤ hdr.toNat ∧ hdr.toNat ≤ 64 ∧ 8 ≤ data.toNat ∧ data.toNat ≤ 1024) →
        (t.port h).link = .waiting ∧ (t.port h).endCause = .retrain ∧ (t.port h).session = (s.port h).session ∧
          (t.port h).answer = some (.nak .range))

/-- CREDIT in ACTIVE raises both response credit counts, each clamped to its declared capacity (R125). What the reports then
make of the stall timer is `report`: by the rows of R140, from the condition of R127 as it stands after the event. Two
readings of that condition are DEDUCED: a GRANT or an attach answer being sent counts as ahead (log 10), and the record
being sent neither waits nor counts as queued (logs 10 and 11). -/
def Obligations.CreditIsClamped : Prop :=
  (∀ p : PortState, Reported p (report p)) ∧
  ∀ (h : Port) (hdr : BitVec 8) (data : BitVec 16) (s : State), s.hold = none → (s.port h).link = .active →
    ∃ t, exec (.credit h hdr data) s = .next t ∧
      t.port h = report { s.port h with respHdr := min (s.port h).capHdr ((s.port h).respHdr + hdr.toNat),
                                        respData := min (s.port h).capData ((s.port h).respData + data.toNat) } ∧
      (∀ g, g ≠ h → t.port g = report (s.port g)) ∧ { t with ports := s.ports } = s

/-- NOTICE_ACK in ACTIVE: snapshot bits it lists are cleared, the others go back to the pending set, other bits have no
effect, and the notice is no longer outstanding; with none outstanding it changes nothing. Raising a bit and
acknowledging it commute (R130). For a pending bit that the mask disables, this follows R130 and not the last paragraph of
R128: DESIGN CHOICE, log 29. -/
def Obligations.NoticeAckReturnsUnlistedBits : Prop :=
  ∀ (h : Port) (bits : NoticeBits) (s : State), s.hold = none → (s.port h).link = .active →
    (∀ sn, (s.port h).snapshot = some sn →
      ∃ t p, exec (.noticeAck h bits) s = .next t ∧ t.port h = report p ∧
        p = { s.port h with noticePending := p.noticePending, snapshot := none } ∧
        (∀ i : Fin 6, p.noticePending.getLsbD i.val =
          ((s.port h).noticePending.getLsbD i.val || (sn.getLsbD i.val && !bits.getLsbD i.val))) ∧
        (p.noticePending &&& p.noticeMask ≠ 0 → p.noticeDue = true) ∧
        (∀ g, g ≠ h → t.port g = report (s.port g)) ∧ { t with ports := s.ports } = s) ∧
    ((s.port h).snapshot = none →
      ∃ t, exec (.noticeAck h bits) s = .next t ∧ (∀ g : Port, t.port g = report (s.port g)) ∧
        { t with ports := s.ports } = s) ∧
    (∀ b : NoticeBits, raiseNotice b (acknowledge bits (s.port h)) = acknowledge bits (raiseNotice b (s.port h)))

/-- A packet whose kind code is unknown, or that is shorter than its kind's header, is unusable and changes no state
(R192, R193). Every other packet is the command of its kind code, with its fields read at their places, least
significant byte first (11.2, 11.3). A frame whose header has the direction bit set writes its words, one command for
each, in ascending word address with COMMAND last, each by the access kind of its address; a frame that ends early is
discarded (R178, R179, R194); an address that a long frame reaches twice keeps both writes: DESIGN CHOICE, log 30. A
COMMAND word is the command of its code with its arguments, or invalid (R180, R181, R195). A read frame drives the words
from its address on, and is no command (R177); that the output stays idle during the data of a write frame is DESIGN CHOICE,
log 33. -/
def Obligations.BytesStandForCommands : Prop :=
  (∀ (h : Port) (bytes : List Byte) (s : State), s.hold = none →
    exec (.hostUnusablePacket h bytes) s = .next s ∧ exec (.targetUnusablePacket bytes) s = .next s) ∧
  (∀ (h : Port) (bytes : List Byte),
    (hostCommand h bytes = .hostUnusablePacket h bytes ↔
      bytes.length < 8 ∨ (bytes.headD 0 = 2 ∧ bytes.length < 16) ∨
        bytes.headD 0 ≠ 1 ∧ bytes.headD 0 ≠ 2 ∧ bytes.headD 0 ≠ 3 ∧ bytes.headD 0 ≠ 4) ∧
    (targetCommand bytes = .targetUnusablePacket bytes ↔
      bytes.length < 8 ∨ bytes.headD 0 ≠ 0x31 ∧ bytes.headD 0 ≠ 0x32 ∧ bytes.headD 0 ≠ 0x33) ∧
    (hostCommand h bytes).wellFormed = true ∧ (targetCommand bytes).wellFormed = true) ∧
  (∀ (h : Port) (b1 b2 b3 b4 b5 b6 b7 b8 b9 b10 b11 b12 b13 b14 b15 : Byte) (rest : List Byte) (x : Tag),
    hostCommand h (1 :: b1 :: b2 :: b3 :: b4 :: b5 :: b6 :: b7 :: rest) = .attach h (b1.extractLsb' 0 6) b2 (b5 ++ b4) ∧
    hostCommand h
        (2 :: b1 :: b2 :: b3 :: b4 :: b5 :: b6 :: b7 :: b8 :: b9 :: b10 :: b11 :: b12 :: b13 :: b14 :: b15 :: rest) =
      .request h b1 (b2.extractLsb' 0 6) (b2.extractLsb' 6 2) (b9 ++ b8 ++ b7 ++ b6 ++ b5 ++ b4) (b11 ++ b10) rest ∧
    hostCommand h (3 :: b1 :: b2 :: b3 :: b4 :: b5 :: b6 :: b7 :: rest) = .credit h b1 (b3 ++ b2) ∧
    hostCommand h (4 :: b1 :: b2 :: b3 :: b4 :: b5 :: b6 :: b7 :: rest) = .noticeAck h (b1.extractLsb' 0 6) ∧
    targetCommand (0x31 :: b1 :: b2 :: b3 :: b4 :: b5 :: b6 :: b7 :: rest) = .trainAck b1 (b3 ++ b2) (b5 ++ b4) ∧
    (x.val = b1.toNat % 128 →
      targetCommand (0x32 :: b1 :: b2 :: b3 :: b4 :: b5 :: b6 :: b7 :: rest) = .tcpl x b2 (b5 ++ b4) rest) ∧
    targetCommand (0x33 :: b1 :: b2 :: b3 :: b4 :: b5 :: b6 :: b7 :: rest) = .tcredit b1 (b3 ++ b2)) ∧
  (∀ (addr : BitVec 16) (words : List Word),
    frameCommands addr words = (frameOrder addr words).map commandOfWrite ∧
    (frameOrder addr words).Perm (words.zipIdx.map fun (w, i) => (addr + BitVec.ofNat 16 i, w)) ∧
    ((frameOrder addr words).filter (·.1 != 0x001)).Pairwise (fun x y => x.1.toNat ≤ y.1.toNat) ∧
    (∀ i : Nat, words.length ≤ 65536 → i < words.length → addr + BitVec.ofNat 16 i = 0x001 →
      (frameCommands addr words).getLast? = some (commandOfWord (words.getD i 0))) ∧
    (∀ c ∈ frameCommands addr words, c.wellFormed = true)) ∧
  (∀ (addr : BitVec 16) (w : Word),
    commandOfWrite (addr, w) =
      if addr = 0x001 then commandOfWord w else if addr = 0x003 then .eventPendingWrite w
      else if addr = 0x004 then .eventEnableWrite w else .registerWrite addr w) ∧
  (∀ (c a : BitVec 8) (b : BitVec 16) (inTable : Bool),
    inTable = (decide (a = 1 ∧ b.toNat < 4) || decide (a = 2 ∧ b.toNat < 16) || decide (a = 3 ∧ b = 0)) →
    commandOfWord (b ++ a ++ c) =
      if c = 1 ∧ a.toNat < 4 then .portReset a else if c = 2 then .targetReset else if c = 3 then .softReset
      else if c = 4 ∧ (b = 64 ∨ b = 128 ∨ b = 256 ∨ b = 512) then .reshape b else if c = 5 then .logPop
      else if c = 6 then .logClear else if c = 7 ∧ inTable then .tableFetch a b
      else if c = 8 ∧ inTable then .tableCommit a b else .invalidCommand (b ++ a ++ c)) ∧
  ∀ (d lo hi : Byte) (w : Word) (words : List Word) (tail rest : List Byte) (n : Nat) (s : State) (le : Word → List Byte),
    (∀ v, le v = [v.extractLsb' 0 8, v.extractLsb' 8 8, v.extractLsb' 16 8, v.extractLsb' 24 8]) →
    (d.getLsbD 7 = true →
      frameRows (d :: lo :: hi :: (w :: words).flatMap le) = frameCommands (hi ++ lo) (w :: words) ∧
      frameRows [d, lo, hi] = [.writeFrameDiscard] ∧ readFrame s (d :: lo :: hi :: rest) n = none ∧
      (1 ≤ tail.length → tail.length ≤ 3 →
        frameRows (d :: lo :: hi :: (words.flatMap le ++ tail)) = [.writeFrameDiscard])) ∧
    (d.getLsbD 7 = false →
      frameRows (d :: lo :: hi :: rest) = [] ∧
      (s.hold = none → readFrame s (d :: lo :: hi :: rest) n =
        some ((List.range n).flatMap fun k => le (readWord s ((hi ++ lo) + BitVec.ofNat 16 k))))) ∧
    (rest.length < 3 → frameRows rest = [.writeFrameDiscard] ∧ readFrame s rest n = none)

/-- The outbound order: a pending attach answer, then a pending GRANT, then a due NOTICE with a header credit, then the
RESPONSE of the queue's head with its credits; nothing while the transmitter is busy (R126). Where the selection names
them, the starts of an attach answer, a GRANT and a NOTICE: the answer is no longer pending; the GRANT takes both counts;
the NOTICE takes its snapshot and a header credit (R120, R122, R124, R129). -/
def Obligations.OutboundOrderAndStarts : Prop :=
  (∀ (p : PortState), p.tx = none → p.link = .active →
    (p.answer ≠ none → p.selected = some .answer) ∧
    (p.answer = none → (0 < p.retHdr ∨ 0 < p.retData) → p.selected = some .grant) ∧
    (p.answer = none → p.retHdr = 0 → p.retData = 0 → p.noticeDue = true → 1 ≤ p.respHdr →
      p.selected = some .notice) ∧
    (∀ i r, p.answer = none → p.retHdr = 0 → p.retData = 0 → (p.noticeDue = false ∨ p.respHdr = 0) →
      p.respQ.head? = some i → p.slot i = some r →
      (p.selected = some .response ↔ 1 ≤ p.respHdr ∧ r.dataNeed ≤ p.respData)) ∧
    (∀ k, ({ p with tx := some k } : PortState).selected = none)) ∧
  ∀ (h : Port) (s : State), s.hold = none →
    (∀ a, (s.port h).selected = some .answer → (s.port h).answer = some a →
      ∃ t, exec (.attachAnswerStart h) s = .next t ∧
        t.port h = report { s.port h with tx := some (.answer a), answer := none } ∧
        (∀ g, g ≠ h → t.port g = report (s.port g)) ∧ { t with ports := s.ports } = s) ∧
    ((s.port h).selected = some .grant →
      ∃ t, exec (.grantTransmissionStart h) s = .next t ∧
        t.port h = report { s.port h with tx := some (.grant (s.port h).retHdr (s.port h).retData), retHdr := 0,
                                          retData := 0 } ∧
        (∀ g, g ≠ h → t.port g = report (s.port g)) ∧ { t with ports := s.ports } = s) ∧
    ((s.port h).selected = some .notice →
      ∃ t, exec (.noticeTransmissionStart h) s = .next t ∧
        t.port h = report { s.port h with
          tx := some (.notice ((s.port h).noticePending &&& (s.port h).noticeMask)),
          snapshot := some ((s.port h).noticePending &&& (s.port h).noticeMask),
          noticePending := (s.port h).noticePending &&& ~~~(s.port h).noticeMask,
          respHdr := (s.port h).respHdr - 1, stallCount := 0 } ∧
        1 ≤ (s.port h).respHdr ∧
        (∀ g, g ≠ h → t.port g = report (s.port g)) ∧ { t with ports := s.ports } = s)

/-- The start of a RESPONSE, where the outbound selection names it: one header credit and the data credits of the answer
are used, the stall count restarts, and the packet carries the record's status, ID, offset and bytes (R44, R124). -/
def Obligations.ResponseStarts : Prop :=
  ∀ (h : Port) (i : Slot) (r : ReqRec) (s : State), s.hold = none → (s.port h).selected = some .response →
    (s.port h).respQ.head? = some i → (s.port h).slot i = some r →
    ∃ t st, exec (.responseTransmissionStart h) s = .next t ∧ st = r.status.getD .ok ∧
      t.port h = report { s.port h with
        tx := some (.response i st (r.hostId.getD 0)
          (if st = .ok ∨ st = .idInUse then none
           else some (match r.firstFailure with
             | some (_, o) => o
             | none => if st = .poisonedData then r.firstPoisoned.getD 0 else 0))
          (if r.kind = .read ∧ (st = .ok ∨ st = .poisonedData) then
             some (loadBytes (r.blocks.map (·.val)) s.buffer 0 r.length) else none)),
        respHdr := (s.port h).respHdr - 1,
        respData := (s.port h).respData -
          (if r.kind = .read ∧ (r.status = some .ok ∨ r.status = some .poisonedData) then (r.length + 63) / 64 else 0),
        stallCount := 0 } ∧
      (∀ g, g ≠ h → t.port g = report (s.port g)) ∧ { t with ports := s.ports } = s

/-- The end of a RESPONSE: its record leaves the head of the response queue and is VACANT, its ID and blocks are free, and
its header credit waits for a GRANT (R45). The end of a GRANT adds its counts to the credits the host holds; the end of a
NOTICE or an attach answer only frees the transmitter (R122, R126). -/
def Obligations.OutboundEnds : Prop :=
  (∀ (h : Port) (i : Slot) (r : ReqRec) (st : HostStatus) (id : HostId) (o : Option Nat) (d : Option (List Byte))
    (s : State), s.hold = none → (s.port h).tx = some (.response i st id o d) →
    (s.port h).respQ.head? = some i → (s.port h).slot i = some r → r.staging = [] →
    ∃ t, exec (.responseTransmissionEnd h) s = .next t ∧
      t.port h = report { s.port h with tx := none, slots := (s.port h).slots.set i.val none,
                                        respQ := (s.port h).respQ.tail, retHdr := (s.port h).retHdr + 1 } ∧
      (∀ g, g ≠ h → t.port g = report (s.port g)) ∧ { t with ports := s.ports } = s) ∧
  ∀ (h : Port) (s : State), s.hold = none →
    (∀ a b, (s.port h).tx = some (.grant a b) →
      ∃ t, exec (.grantTransmissionEnd h) s = .next t ∧
        t.port h = report { s.port h with tx := none, reqHdr := (s.port h).reqHdr + a,
                                          reqData := (s.port h).reqData + b } ∧
        (∀ g, g ≠ h → t.port g = report (s.port g)) ∧ { t with ports := s.ports } = s) ∧
    (((∃ b, (s.port h).tx = some (.notice b)) ∨ (∃ a, (s.port h).tx = some (.answer a))) →
      ∃ t, exec (.hostTransmissionEnd h) s = .next t ∧ t.port h = report { s.port h with tx := none } ∧
        (∀ g, g ≠ h → t.port g = report (s.port g)) ∧ { t with ports := s.ports } = s)

/-! ## Requests -/

/-- A READ, WRITE or POST that passes all six checks takes the lowest-numbered VACANT slot in QUEUED with its translated
address; its credits are consumed, its data is in the lowest-numbered free staging blocks and reads back from them
(R25, R26, R28, R30, R35, R36). A FENCE whose ID is not mapped is accepted there without checks 4 to 6, and the port's
FENCEs are then tested: it stays QUEUED where none may enter READY, and it is READY at once by the fence-fault flag, which
is cleared, where every other record of the port is READY (R32, R36, R41, R42). -/
def Obligations.RequestIsAccepted : Prop :=
  (∀ (h : Port) (kind : BitVec 8) (k : ReqKind) (id : HostId) (cls : BitVec 2) (addr : BitVec 48) (len : BitVec 16)
    (data : List Byte) (i : Slot) (a : BitVec 40) (blocks : List StageBlock) (s : State),
    s.hold = none → (s.port h).link = .active → 1 ≤ (s.port h).reqHdr → ceilBlocks data.length ≤ (s.port h).reqData →
    (s.port h).vacantSlot = some i → blocks = (s.port h).freeStaging.take (ceilBlocks data.length) →
    blocks.length = ceilBlocks data.length → ReqKind.ofCode kind = some k → k ≠ .fence →
    data.length = (if k = .read then 0 else len.toNat) → (k = .post ∨ (s.port h).idMapped id = false) →
    accessCheck s h k addr.toNat len.toNat = .inr a → (s.port h).staging.wf →
    ∃ t p, exec (.request h kind id cls addr len data) s = .next t ∧ t.port h = report p ∧
      p.slot i = some
        { stage := .queued, kind := k, hostId := if k = .post then none else some id, mapped := decide (k ≠ .post),
          cls := cls, target := some a, length := len.toNat, seq := (s.port h).acceptSeq, cut := none,
          firstFailure := none, firstPoisoned := none, blocks := [], staging := blocks, status := none,
          rejected := false } ∧
      (∀ j, j ≠ i → p.slot j = (s.port h).slot j) ∧
      p.reqHdr = (s.port h).reqHdr - 1 ∧ p.reqData = (s.port h).reqData - blocks.length ∧
      p.acceptSeq = (s.port h).acceptSeq + 1 ∧
      loadBytes (blocks.map (·.val)) p.staging 0 data.length = data ∧
      (∀ x : Nat, (∀ b ∈ blocks, x / 64 ≠ b.val) → p.staging.read x = (s.port h).staging.read x) ∧
      { p with slots := (s.port h).slots, reqHdr := (s.port h).reqHdr, reqData := (s.port h).reqData,
               acceptSeq := (s.port h).acceptSeq, staging := (s.port h).staging } = s.port h ∧
      (∀ g, g ≠ h → t.port g = report (s.port g)) ∧ { t with ports := s.ports } = s) ∧
  ∀ (h : Port) (id : HostId) (cls : BitVec 2) (addr : BitVec 48) (i : Slot) (r : ReqRec) (p : PortState) (s : State),
    s.hold = none → (s.port h).link = .active → 1 ≤ (s.port h).reqHdr → (s.port h).vacantSlot = some i →
    (s.port h).idMapped id = false →
    r = { stage := .queued, kind := .fence, hostId := some id, mapped := true, cls := cls, target := none, length := 0,
          seq := (s.port h).acceptSeq, cut := none, firstFailure := none, firstPoisoned := none, blocks := [],
          staging := [], status := none, rejected := false } →
    p = { s.port h with slots := (s.port h).slots.set i.val (some r), reqHdr := (s.port h).reqHdr - 1,
                        acceptSeq := (s.port h).acceptSeq + 1 } →
    ∃ t, exec (.request h 3 id cls addr 0 []) s = .next t ∧
      (p.readyFence = none → t.port h = report p) ∧
      ((∀ j q, (s.port h).slot j = some q → q.stage = .ready) →
        t.port h = report
          { p with slots := (s.port h).slots.set i.val (some
                     { r with stage := .ready, status := some (if (s.port h).fenceFault then .faultSeen else .ok) }),
                   respQ := (s.port h).respQ ++ [i], fenceFault := false }) ∧
      (t.port h).fenceFault = (if p.readyFence = none then (s.port h).fenceFault else false) ∧
      (t.port h).readyFence = none ∧
      (∀ g, g ≠ h → t.port g = report (s.port g)) ∧ { t with ports := s.ports } = s

/-- A READ, WRITE or FENCE whose ID is mapped, or a READ or WRITE that fails checks 4 to 6, is answered from its slot: the
record is READY with ID_IN_USE or the check's status at the tail of the response queue, its staging returns as credit, and
the fence-fault flag is set (R32 to R37, R42). -/
def Obligations.RequestIsRejected : Prop :=
  ∀ (h : Port) (kind : BitVec 8) (k : ReqKind) (id : HostId) (cls : BitVec 2) (addr : BitVec 48) (len : BitVec 16)
    (data : List Byte) (i : Slot) (st : HostStatus) (s : State),
    s.hold = none → (s.port h).link = .active → 1 ≤ (s.port h).reqHdr → ceilBlocks data.length ≤ (s.port h).reqData →
    (s.port h).vacantSlot = some i →
    ((s.port h).freeStaging.take (ceilBlocks data.length)).length = ceilBlocks data.length →
    ReqKind.ofCode kind = some k → k ≠ .post → data.length = (if k = .read then 0 else len.toNat) →
    (k = .fence → len = 0) →
    ((s.port h).idMapped id = true ∧ st = .idInUse ∨
      k ≠ .fence ∧ (s.port h).idMapped id = false ∧ accessCheck s h k addr.toNat len.toNat = .inl st) →
    ∃ t p r, exec (.request h kind id cls addr len data) s = .next t ∧ t.port h = report p ∧ p.slot i = some r ∧
      r.stage = .ready ∧ r.status = some st ∧ r.rejected = true ∧ r.hostId = some id ∧
      (r.mapped = true ↔ st ≠ .idInUse) ∧ r.staging = [] ∧
      (∀ j, j ≠ i → p.slot j = (s.port h).slot j) ∧ p.respQ = (s.port h).respQ ++ [i] ∧ p.fenceFault = true ∧
      p.reqHdr = (s.port h).reqHdr - 1 ∧ p.retHdr = (s.port h).retHdr ∧
      p.retData = (s.port h).retData + ceilBlocks data.length ∧
      (∀ g, g ≠ h → t.port g = report (s.port g)) ∧ { t with ports := s.ports } = s

/-- The order of checks 4 to 6: UNAVAILABLE on a FAIL port while the target lane is not UP, then BAD_REQUEST for a length
out of range or a READ above the block ceiling, then DENIED without a window that holds the request, grants the right and
keeps it below 2^40 (R33, R34, R35). -/
def Obligations.AccessChecksInOrder : Prop :=
  ∀ (h : Port) (k : ReqKind) (addr len : Nat) (s : State), k ≠ .fence →
    ((s.portPolicy h).behaviour = .fail ∧ s.target.link ≠ .up → accessCheck s h k addr len = .inl .unavailable) ∧
    (((s.portPolicy h).behaviour = .hold ∨ s.target.link = .up) →
      ((len = 0 ∨ 512 < len ∨ k = .read ∧ (s.portPolicy h).blockCeiling < (len + 63) / 64) →
        accessCheck s h k addr len = .inl .badRequest) ∧
      (1 ≤ len → len ≤ 512 → (k = .read → (len + 63) / 64 ≤ (s.portPolicy h).blockCeiling) →
        ((∀ w : Fin 4, ¬ ((s.window h w).enabled = true ∧ (s.window h w).base.toNat ≤ addr ∧
            addr + len ≤ (s.window h w).limit.toNat)) → accessCheck s h k addr len = .inl .denied) ∧
        (∀ w : Fin 4, (s.window h w).enabled = true → (s.window h w).base.toNat ≤ addr →
          addr + len ≤ (s.window h w).limit.toNat →
          (∀ v : Fin 4, v < w → ¬ ((s.window h v).enabled = true ∧ (s.window h v).base.toNat ≤ addr ∧
            addr + len ≤ (s.window h v).limit.toNat)) →
          (accessCheck s h k addr len =
            if (if k = .read then (s.window h w).canRead else (s.window h w).canWrite) = true ∧
              (s.window h w).offset.toNat + addr - (s.window h w).base.toNat + len ≤ 2 ^ 40
            then .inr (BitVec.ofNat 40 ((s.window h w).offset.toNat + addr - (s.window h w).base.toNat))
            else .inl .denied))))

/-- Requests that take no slot: outside ACTIVE a REQUEST is discarded (R116; in DOWN, where none arrives, DEDUCED, log 1);
without the credits it takes nothing and CREDIT_VIOLATION is raised and logged (R30); a malformed one hands its credits back
and MALFORMED_REQUEST is raised and logged (R31). A POST that fails checks 4 to 6 is dropped: its credits are handed back,
POSTED_REJECTED is raised and logged with the host address and the status, and the fence-fault flag is set (R38). -/
def Obligations.RequestTakesNoSlot : Prop :=
  (∀ (h : Port) (kind : BitVec 8) (id : HostId) (cls : BitVec 2) (addr : BitVec 48) (len : BitVec 16)
    (data : List Byte) (s : State), s.hold = none →
    ((s.port h).link ≠ .active → exec (.request h kind id cls addr len data) s = .next s) ∧
    ((s.port h).link = .active → ((s.port h).reqHdr = 0 ∨ (s.port h).reqData < ceilBlocks data.length) →
      ∃ t, exec (.request h kind id cls addr len data) s = .next t ∧
        t.port h = report { s.port h with noticePending := (s.port h).noticePending ||| noticeCreditViolation } ∧
        LastLogged s t { kind := .creditViolation, port := some h, session := some (s.port h).session,
                         detail := some (if (s.port h).reqHdr = 0 then 1 else 2) } ∧
        (∀ g, g ≠ h → t.port g = report (s.port g)) ∧
        { t with ports := s.ports, log := s.log, events := s.events } = s) ∧
    (∀ (d : Nat) (i : Slot), (s.port h).link = .active → 1 ≤ (s.port h).reqHdr →
      ceilBlocks data.length ≤ (s.port h).reqData → (s.port h).vacantSlot = some i →
      ceilBlocks data.length ≤ (s.port h).freeStaging.length →
      (d = 1 ∧ 4 ≤ kind.toNat ∨
        d = 2 ∧ (kind = 0 ∧ data ≠ [] ∨ kind = 3 ∧ data ≠ [] ∨ (kind = 1 ∨ kind = 2) ∧ data.length ≠ len.toNat) ∨
        d = 3 ∧ kind = 3 ∧ data = [] ∧ len ≠ 0) →
      ∃ t p, exec (.request h kind id cls addr len data) s = .next t ∧ t.port h = report p ∧
        p.slots = (s.port h).slots ∧ p.respQ = (s.port h).respQ ∧
        p.noticePending = (s.port h).noticePending ||| noticeMalformedRequest ∧
        p.reqHdr = (s.port h).reqHdr - 1 ∧ p.reqData = (s.port h).reqData - ceilBlocks data.length ∧
        p.retHdr = (s.port h).retHdr + 1 ∧ p.retData = (s.port h).retData + ceilBlocks data.length ∧
        LastLogged s t { kind := .malformedRequest, port := some h, session := some (s.port h).session,
                         detail := some d } ∧
        (∀ g, g ≠ h → t.port g = report (s.port g)) ∧
        { t with ports := s.ports, log := s.log, events := s.events } = s)) ∧
  ∀ (h : Port) (id : HostId) (cls : BitVec 2) (addr : BitVec 48) (len : BitVec 16) (data : List Byte) (i : Slot)
    (st : HostStatus) (s : State), s.hold = none → (s.port h).link = .active → 1 ≤ (s.port h).reqHdr →
    ceilBlocks data.length ≤ (s.port h).reqData → (s.port h).vacantSlot = some i →
    ceilBlocks data.length ≤ (s.port h).freeStaging.length → data.length = len.toNat →
    accessCheck s h .post addr.toNat len.toNat = .inl st →
    ∃ t p, exec (.request h 2 id cls addr len data) s = .next t ∧ t.port h = report p ∧
      p.slots = (s.port h).slots ∧ p.respQ = (s.port h).respQ ∧ p.fenceFault = true ∧
      p.noticePending = (s.port h).noticePending ||| noticePostedRejected ∧
      p.reqHdr = (s.port h).reqHdr - 1 ∧ p.retHdr = (s.port h).retHdr + 1 ∧
      p.retData = (s.port h).retData + ceilBlocks data.length ∧
      LastLogged s t { kind := .postedRejected, port := some h, session := some (s.port h).session, cls := some cls,
                       length := some len.toNat, address := some (.host addr), detail := some st.code } ∧
      (∀ g, g ≠ h → t.port g = report (s.port g)) ∧ { t with ports := s.ports, log := s.log, events := s.events } = s

/-- A FENCE at the head of its port's issue order, with no earlier record in AWAITING, enters READY with FAULT_SEEN where
the flag is set and OK where it is clear; the flag is clear after it, and no FENCE that may enter READY is left (R41,
R42). -/
def Obligations.FenceReadsAndClearsTheFlag : Prop :=
  ∀ (h : Port) (i : Slot) (r : ReqRec) (s : State), s.hold = none → (s.port h).readyFence = some i →
    (s.port h).slot i = some r →
    ∃ t r', exec (.fenceReady h) s = .next t ∧ (t.port h).slot i = some r' ∧ r'.stage = .ready ∧
      r'.status = some (if (s.port h).fenceFault then .faultSeen else .ok) ∧ r'.hostId = r.hostId ∧
      (t.port h).fenceFault = false ∧ (t.port h).readyFence = none ∧ i ∈ (t.port h).respQ ∧
      (∀ g, g ≠ h → t.port g = report (s.port g)) ∧ { t with ports := s.ports } = s

/-! ## The target lane and completions -/

/-- Carrier detection takes the target lane from DOWN to TRAINING; a reached train end sends another TRAIN; a reached
holdoff end goes to TRAINING with carrier and to DOWN without. Each entry sends a TRAIN and sets the train end 64 ticks
on (R148, R151, R154). -/
def Obligations.TargetLaneTrains : Prop :=
  ∀ (s : State) (e : Tick), s.hold = none →
    (s.target.link = .down → exec .targetCarrierDetect s = .next
      { s with target := { s.target with carrier := true, link := .training (s.timebase + 64), tx := .train } }) ∧
    (s.target.link ≠ .down →
      exec .targetCarrierDetect s = .next { s with target := { s.target with carrier := true } }) ∧
    (s.target.link = .training e → reached s.timebase e = true → exec .trainEndTickExpiry s = .next
      { s with target := { s.target with link := .training (s.timebase + 64), tx := .train } }) ∧
    (s.target.link = .holdoff e → reached s.timebase e = true → exec .targetHoldoffEnd s = .next
      { s with target := if s.target.carrier then
                 { s.target with link := .training (s.timebase + 64), tx := .train }
               else { s.target with link := .down } }) ∧
    (s.target.link = .training e ∨ s.target.link = .holdoff e → reached s.timebase e = false →
      exec .trainEndTickExpiry s = .next s ∧ exec .targetHoldoffEnd s = .next s)

/-- Training fails at a carrier loss, a check failure, a TRAIN_ACK that fails its checks and a TARGET_RESET: the lane goes
where the table says with its last down cause, and no tag, record, queue, log record or notice is touched (R153). -/
def Obligations.TrainingFails : Prop :=
  ∀ (s : State) (e : Tick) (hdr : BitVec 8) (data size : BitVec 16), s.hold = none → s.target.link = .training e →
    (∃ t, exec .targetCarrierLoss s = .next t ∧ t.target.link = .down ∧ t.target.lastDown = .carrierLoss ∧
      (pendingSet t).getLsbD eventTargetDown = true ∧
      (∀ h : Port, t.port h = report (s.port h)) ∧ { t with target := s.target, ports := s.ports } = s) ∧
    (∃ t, exec .targetCheckFailure s = .next t ∧ t.target.link = .holdoff (s.timebase + 64) ∧
      t.target.lastDown = .protocol ∧ (pendingSet t).getLsbD eventTargetDown = true ∧
      (∀ h : Port, t.port h = report (s.port h)) ∧ { t with target := s.target, ports := s.ports } = s) ∧
    (trainAckSize hdr.toNat data.toNat size.toNat = none →
      ∃ t, exec (.trainAck hdr data size) s = .next t ∧ t.target.link = .holdoff (s.timebase + 64) ∧
        t.target.lastDown = .protocol ∧ (pendingSet t).getLsbD eventTargetDown = true ∧
        (∀ h : Port, t.port h = report (s.port h)) ∧ { t with target := s.target, ports := s.ports } = s) ∧
    (∃ t, exec .targetReset s = .next t ∧ t.target.link = .holdoff (s.timebase + 64) ∧
      t.target.lastDown = .targetReset ∧ (pendingSet t).getLsbD eventTargetDown = true ∧
      (∀ h : Port, t.port h = report (s.port h)) ∧
      { t with target := s.target, ports := s.ports, mgmt := s.mgmt } = s)

/-- A TRAIN_ACK in TRAINING whose counts and size pass brings the lane UP with those totals and credits, the target
maximum and the effective MRS formed; TARGET_UP is raised on every ACTIVE port (R152, R155). The transmitter is free at that
entry, also where a TRAIN is being sent that R151 sends whole: DESIGN CHOICE, log 22. Where no record is in ISSUING
and no drain is in progress, nothing else changes. Step 3 of R152: a READ or WRITE left in ISSUING whose MRS used is above
the new maximum, its issued subrequests retired, is READY with the LINK_DOWN entry at the offset of its next piece; a POST
so left is dropped, notified and logged; every other record but a FENCE stands. A drain in progress completes where this
leaves nothing to wait for (R66, R68). That bits 12 and 14 of the occurrence bits are clear is StepKeepsLogOrdered's
invariant. -/
def Obligations.TrainAckBringsTheLaneUp : Prop :=
  ∀ (s : State) (e : Tick) (hdr : BitVec 8) (data size : BitVec 16) (m : Mrs), s.hold = none →
    s.target.link = .training e → 1 ≤ hdr.toNat → hdr.toNat ≤ 64 → 1 ≤ data.toNat → data.toNat ≤ 256 →
    size.toNat = m.bytes → m.bytes ≤ 64 * data.toNat → s.events.occ &&& 0x5000 = 0 →
    ∃ t, exec (.trainAck hdr data size) s = .next t ∧
      t.target = { s.target with
        link := .up, totalHdr := hdr.toNat, totalData := data.toNat, heldHdr := hdr.toNat, heldData := data.toNat,
        maxReq := some m, effMrs := some (if t.arb.configuredMrs.bytes ≤ m.bytes then t.arb.configuredMrs else m),
        tx := .idle } ∧
      (pendingSet t).getLsbD eventTargetDown = false ∧
      (∀ h : Port, (s.port h).link = .active → (t.port h).noticePending.getLsbD 4 = true) ∧
      t.timebase = s.timebase ∧ t.tags = s.tags ∧ t.buffer = s.buffer ∧ t.policy = s.policy ∧ t.mgmt = s.mgmt ∧
      t.pending = s.pending ∧
      (s.arb.reshape = .idle → t.arb = s.arb) ∧
      (∀ z start limit, s.arb.reshape = .draining z start limit → t.arb =
        if drainClear t then { s.arb with configuredMrs := z, outcome := .done, reshape := .idle } else s.arb) ∧
      ((∀ (h : Port) (i : Slot) (r : ReqRec), (s.port h).slot i = some r → r.stage ≠ .issuing) →
        (∀ h : Port, t.port h = report (raiseNotice noticeTargetUp (s.port h))) ∧ t.log = s.log ∧
          (s.arb.reshape = .idle → { t with target := s.target, ports := s.ports } = s)) ∧
      ∀ (h : Port) (i : Slot) (q : ReqRec), (s.port h).slot i = some q →
        ((q.stage ≠ .issuing ∨ ∀ c, q.cut = some c → c.mrs.bytes ≤ m.bytes) → q.kind ≠ .fence →
          (t.port h).slot i = some q) ∧
        ∀ (c : Cut) (x : Sub), q.stage = .issuing → q.cut = some c → m.bytes < c.mrs.bytes →
          c.subs[c.next]? = some x →
          ((q.kind = .read ∨ q.kind = .write) → q.firstFailure = none →
            (∀ (k : Nat) (y : Sub), k < c.next → c.subs[k]? = some y → y.outcome ≠ none) →
            ∃ q', (t.port h).slot i = some q' ∧ q'.stage = .ready ∧ q'.firstFailure = some (.linkDown, x.offset) ∧
              q'.status = some (s.portPolicy h).errorMap.linkDown ∧ q'.staging = [] ∧ i ∈ (t.port h).respQ) ∧
          (q.kind = .post → (t.port h).slot i = none ∧
            ((s.port h).link = .active → (t.port h).noticePending.getLsbD 2 = true) ∧
            ((∀ (g : Port) (j : Slot) (r : ReqRec), (s.port g).slot j = some r → r.kind = .post →
                r.stage = .issuing → g = h ∧ j = i) →
              LastLogged s t { kind := .postedRejected, port := some h, session := some (s.port h).session,
                               cls := some q.cls, length := some q.length,
                               address := some (.target (q.target.getD 0 + BitVec.ofNat 40 x.offset)),
                               detail := some 8 }))

/-- A TCREDIT in UP adds both counts where both sums fit their totals, and is a target lane loss with cause PROTOCOL where
either does not (R156), which leaves the lane, the tags and the ports as every target lane loss does (R95, R158 to R160);
the end of a TREQ frees the transmitter and changes nothing else (R157). -/
def Obligations.TcreditAndTreqEnd : Prop :=
  ∀ (s : State) (hdr : BitVec 8) (data : BitVec 16), s.hold = none → s.target.link = .up →
    (s.target.heldHdr + hdr.toNat ≤ s.target.totalHdr → s.target.heldData + data.toNat ≤ s.target.totalData →
      ∃ t, exec (.tcredit hdr data) s = .next t ∧
        t.target = { s.target with heldHdr := s.target.heldHdr + hdr.toNat,
                                   heldData := s.target.heldData + data.toNat } ∧
        (∀ h : Port, t.port h = report (s.port h)) ∧ { t with target := s.target, ports := s.ports } = s) ∧
    ((s.target.totalHdr < s.target.heldHdr + hdr.toNat ∨ s.target.totalData < s.target.heldData + data.toNat) →
      ∃ t, exec (.tcredit hdr data) s = .next t ∧ TargetLost .protocol s t ∧ PortsAfterLoss s t ∧ t.mgmt = s.mgmt) ∧
    (∀ q, s.target.tx = .treq q → exec .treqTransmissionEnd s = .next { s with target := { s.target with tx := .idle } })

/-- A target lane loss in UP, by carrier loss, a check failure or TARGET_RESET: HOLDOFF with no credits, every tag FREE,
the retry queue empty, the hold and a drain ended, and TARGET_LANE_DOWN logged last (R22, R70, R72, R154, R158, R162). The
live subrequests retire LINK_DOWN (R95), QUEUED records stand under HOLD and are answered or dropped under FAIL (R40,
R159), and TARGET_DOWN is pending on every ACTIVE port (R160). -/
def Obligations.TargetLaneLossReleasesAll : Prop :=
  ∀ (s : State), s.hold = none → s.target.link = .up →
    (∃ t, exec .targetCarrierLoss s = .next t ∧ TargetLost .carrierLoss s t ∧ PortsAfterLoss s t ∧ t.mgmt = s.mgmt) ∧
    (∃ t, exec .targetCheckFailure s = .next t ∧ TargetLost .protocol s t ∧ PortsAfterLoss s t ∧ t.mgmt = s.mgmt) ∧
    (∃ t, exec .targetReset s = .next t ∧ TargetLost .targetReset s t ∧ PortsAfterLoss s t ∧
      t.mgmt = { s.mgmt with lastCommand := 2, result := .done, frame := .idle })

/-- A completion part in UP for a FREE tag, a tag in BACKOFF or a LAPSED tag is logged and changes nothing else (R12,
R76). A part for an orphaned tag in ISSUED or FILLING reaches no request record and places no byte: a malformed one lapses
the tag and is logged (R11, R20, R79, R85); a data part that is not the last lowers expected remaining and leaves the tag
in FILLING (R8); every other well-formed one, RETRY among them, frees the tag and is not logged (R9, R20). -/
def Obligations.StrayCompletionsAreLogged : Prop :=
  ∀ (x : Tag) (status : BitVec 8) (rem : BitVec 16) (data : List Byte) (s : State), s.hold = none →
    s.target.link = .up → s.arb.reshape = .idle →
    (s.tagRec x = none → ∃ t, exec (.tcpl x status rem data) s = .next t ∧
      LastLogged s t { kind := .unmatchedCompletion, tag := some x, length := some rem.toNat,
                       detail := some status.toNat } ∧
      (∀ h : Port, t.port h = report (s.port h)) ∧
      { t with log := s.log, events := s.events, ports := s.ports } = s) ∧
    (∀ r, s.tagRec x = some r → (r.isBackoff = true ∨ r.isLapsed = true) →
      ∃ t, exec (.tcpl x status rem data) s = .next t ∧
        LastLogged s t (if r.isLapsed then
            { kind := .lateCompletion, port := some r.port, tag := some x, session := some r.session,
              address := some (.target r.addr), detail := some status.toNat }
          else { kind := .unmatchedCompletion, port := some r.port, tag := some x, session := some r.session,
                 length := some rem.toNat, detail := some status.toNat }) ∧
        (∀ h : Port, t.port h = report (s.port h)) ∧
        { t with log := s.log, events := s.events, ports := s.ports } = s) ∧
    (∀ (r : TagRec) (d : Tick), s.tagRec x = some r → r.orphaned = true → r.runningDeadline = some d →
      (¬ PartFits r status rem.toNat data →
        ∃ t, exec (.tcpl x status rem data) s = .next t ∧
          t.tagRec x = (if s.policy.global.quarantine = 0 then none
            else some { r with phase := .lapsed (after s.timebase s.policy.global.quarantine) }) ∧
          (∀ z, z ≠ x → t.tagRec z = s.tagRec z) ∧
          LastLogged s t { kind := .malformedCompletion, port := some r.port, tag := some x, session := some r.session,
                           length := some rem.toNat, address := some (.target r.addr), detail := some status.toNat } ∧
          (∀ h : Port, t.port h = report (s.port h)) ∧
          { t with tags := s.tags, log := s.log, events := s.events, ports := s.ports } = s) ∧
      (PartFits r status rem.toNat data →
        ∃ t, exec (.tcpl x status rem data) s = .next t ∧
          t.tagRec x = (if r.kind = .read ∧ status.toNat ≤ 1 ∧ data.length < r.remaining
            then some { r with remaining := r.remaining - data.length, phase := .filling d } else none) ∧
          (∀ z, z ≠ x → t.tagRec z = s.tagRec z) ∧ (∀ h : Port, t.port h = report (s.port h)) ∧
          { t with tags := s.tags, ports := s.ports } = s))

/-- A well-formed data part of a live READ: its bytes go to the request's blocks at the subrequest's offset plus the bytes
received, and every other byte stands (R55, R77, R80). A POISONED part marks the entry, and the record's first poisoned
offset where none is set (R80). Where it is not the last, expected remaining falls and the tag is FILLING with its deadline
(R8); the last frees the tag and retires the subrequest, POISONED where its entry is marked and OK otherwise (R9, R81). -/
def Obligations.DataPartIsPlaced : Prop :=
  ∀ (x : Tag) (r : TagRec) (q q1 : ReqRec) (y : Sub) (d : Tick) (status : BitVec 8) (rem : BitVec 16) (data : List Byte)
    (start : Nat) (u s : State),
    s.hold = none → s.target.link = .up → s.tagRec x = some r → r.kind = .read → r.orphaned = false →
    r.runningDeadline = some d → entryOf s r = some (q, y) → (status = 0 ∨ status = 1) →
    PartFits r status rem.toNat data → start = y.offset + (r.length - r.remaining) → s.buffer.wf → q.blocks.Nodup →
    start + data.length ≤ 64 * q.blocks.length →
    q1 = (if status = 0 then q else
      { q with cut := q.cut.map fun c => { c with subs := c.subs.set r.sub { y with poisoned := true } },
               firstPoisoned := some (q.firstPoisoned.getD start) }) →
    u = s.modPort r.port (fun p => { p with slots := p.slots.set r.slot.val (some q1) }) →
    ∃ t, exec (.tcpl x status rem data) s = .next t ∧ (∀ z, z ≠ x → t.tagRec z = s.tagRec z) ∧
      loadBytes (q.blocks.map (·.val)) t.buffer start data.length = data ∧
      (∀ o a : Nat, (o < start ∨ start + data.length ≤ o) → byteAddr (q.blocks.map (·.val)) o = some a →
        t.buffer.read a = s.buffer.read a) ∧
      (∀ a : Nat, (∀ b ∈ q.blocks, a / 64 ≠ b.val) → t.buffer.read a = s.buffer.read a) ∧
      t.log = s.log ∧ t.policy = s.policy ∧ t.timebase = s.timebase ∧
      (∀ g, g ≠ r.port → t.port g = report (s.port g)) ∧
      (data.length < r.remaining →
        t.tagRec x = some { r with remaining := r.remaining - data.length, phase := .filling d } ∧
          t.port r.port = report (u.port r.port) ∧ { t with tags := s.tags, buffer := s.buffer, ports := s.ports } = s) ∧
      (data.length = r.remaining →
        t.tagRec x = none ∧
          EntryRetired (if status = 1 ∨ y.poisoned = true then .poisoned else .ok) r.port r.slot r.sub u t)

/-- What answers a live tag other than a data part, for a request of any number of pieces. A well-formed OK to a WRITE, and
UNSUPPORTED and ABORTED to a WRITE or READ, free the tag and retire the subrequest with that outcome (R9, R82, R83). A
malformed part lapses the tag, or frees it where the quarantine period is 0, is logged, and retires the subrequest
MALFORMED; no byte is placed (R11, R79). RETRY below the limit puts the tag in BACKOFF with the count raised and the
deadline kept, and no record is touched; at the limit it frees the tag, is logged, and retires the subrequest
RETRY_EXHAUSTED (R10, R84, R103). What a retirement does to the record is EntryRetired (R86 to R92). -/
def Obligations.WriteCompletes : Prop :=
  ∀ (x : Tag) (r : TagRec) (d : Tick) (status : BitVec 8) (rem : BitVec 16) (data : List Byte) (s : State),
    s.hold = none → s.target.link = .up → s.tagRec x = some r → r.orphaned = false → r.runningDeadline = some d →
    (∀ o : SubOutcome, PartFits r status rem.toNat data →
      (status = 0 ∧ r.kind = .write ∧ o = .ok ∨ status = 2 ∧ o = .unsupported ∨ status = 3 ∧ o = .aborted) →
      ∃ t, exec (.tcpl x status rem data) s = .next t ∧ t.tagRec x = none ∧ (∀ z, z ≠ x → t.tagRec z = s.tagRec z) ∧
        EntryRetired o r.port r.slot r.sub s t ∧ t.log = s.log ∧ t.buffer = s.buffer ∧
        (∀ g, g ≠ r.port → t.port g = report (s.port g))) ∧
    (¬ PartFits r status rem.toNat data →
      ∃ t, exec (.tcpl x status rem data) s = .next t ∧
        t.tagRec x = (if s.policy.global.quarantine = 0 then none
          else some { r with phase := .lapsed (after s.timebase s.policy.global.quarantine) }) ∧
        (∀ z, z ≠ x → t.tagRec z = s.tagRec z) ∧ EntryRetired .malformed r.port r.slot r.sub s t ∧
        LastLogged s t { kind := .malformedCompletion, port := some r.port, tag := some x, session := some r.session,
                         length := some rem.toNat, address := some (.target r.addr), detail := some status.toNat } ∧
        t.buffer = s.buffer ∧ (∀ g, g ≠ r.port → t.port g = report (s.port g))) ∧
    (PartFits r status rem.toNat data → status = 4 →
      (r.retries < s.policy.global.retryLimit →
        ∃ t, exec (.tcpl x status rem data) s = .next t ∧
          t.tagRec x = some { r with
            retries := r.retries + 1,
            phase := .backoff d (some (s.timebase + BitVec.ofNat 32 s.policy.global.backoff)) } ∧
          (∀ z, z ≠ x → t.tagRec z = s.tagRec z) ∧ (∀ h : Port, t.port h = report (s.port h)) ∧
          { t with tags := s.tags, ports := s.ports } = s) ∧
      (s.policy.global.retryLimit ≤ r.retries →
        ∃ t, exec (.tcpl x status rem data) s = .next t ∧ t.tagRec x = none ∧
          (∀ z, z ≠ x → t.tagRec z = s.tagRec z) ∧ EntryRetired .retryExhausted r.port r.slot r.sub s t ∧
          LastLogged s t { kind := .retryExhausted, port := some r.port, tag := some x,
                           hostId := ((s.port r.port).slot r.slot).bind (·.hostId), session := some r.session,
                           cls := ((s.port r.port).slot r.slot).map (·.cls), length := some r.length,
                           address := some (.target r.addr), detail := some r.retries } ∧
          t.buffer = s.buffer ∧ (∀ g, g ≠ r.port → t.port g = report (s.port g))))

/-! ## Issue -/

/-- A split covers the request: the offsets run from 0 with no gaps, the lengths sum to the request length, no piece is
empty or crosses a multiple of the size, and only the first and the last can be shorter than it (R52). -/
def Obligations.SplitCoversTheRequest : Prop :=
  ∀ (mrs : Mrs) (addr len : Nat),
    ((split mrs.bytes addr len).map Prod.snd).sum = len ∧
    (∀ (n : Nat) (x : Nat × Nat), (split mrs.bytes addr len)[n]? = some x →
      x.1 = (((split mrs.bytes addr len).take n).map Prod.snd).sum ∧ 1 ≤ x.2 ∧
      (addr + x.1) / mrs.bytes = (addr + x.1 + x.2 - 1) / mrs.bytes ∧
      (0 < n → n + 1 < (split mrs.bytes addr len).length → x.2 = mrs.bytes)) ∧
    (len ≤ 512 → (split mrs.bytes addr len).length ≤ 9)

/-- The allocation test of a port passes exactly on its three conditions, and after an allocation that it allowed the FREE
tags still cover the unused reservations of the other three ports (R3). -/
def Obligations.TagTestKeepsReservations : Prop :=
  ∀ (s : State) (h : Port),
    (tagTest s h = true ↔
      1 ≤ freeTags s ∧ held s h < (s.portPolicy h).ceiling ∧
        (held s h < (s.portPolicy h).floor ∧
            (allPorts.map fun g => (s.portPolicy g).floor - held s g).sum ≤ freeTags s ∨
          1 + ((allPorts.filter (· != h)).map fun g => (s.portPolicy g).floor - held s g).sum ≤ freeTags s)) ∧
    (∀ (x : Tag) (r : TagRec), tagTest s h = true → s.tagRec x = none → r.port = h →
      ((allPorts.filter (· != h)).map fun g =>
          (s.portPolicy g).floor - held (s.setTag x (some r)) g).sum ≤ freeTags (s.setTag x (some r)))

/-- The tag count registers read the four held counts, the free count, the LAPSED count and the orphaned count; the held
counts and the free count read by one frame sum to 128; a write to them is ignored; with every tag FREE, as a part reset
leaves them, the counts read 0, 0, 0, 0, then 128, 0 and 0 (R24). -/
def Obligations.TagCountRegisters : Prop :=
  ∀ (s : State),
    (∀ h : Port, field (readWord s 0x010) (8 * h.val) 8 = held s h) ∧
    field (readWord s 0x011) 0 8 = freeTags s ∧ field (readWord s 0x011) 8 8 = lapsedTags s ∧
    field (readWord s 0x011) 16 8 = orphanedTags s ∧
    (allPorts.map fun h => field (readWord s 0x010) (8 * h.val) 8).sum + field (readWord s 0x011) 0 8 = 128 ∧
    (s.hold = none → ∀ w : Word,
      exec (.registerWrite 0x010 w) s = .next { s with mgmt := { s.mgmt with frame := .idle } } ∧
      exec (.registerWrite 0x011 w) s = .next { s with mgmt := { s.mgmt with frame := .idle } }) ∧
    (s.tags = State.reset.tags → readWord s 0x010 = 0 ∧ readWord s 0x011 = 128)

/-- While no block is reserved twice, the free count and the four reserved counts sum to 256, and so do the values read
by one frame (R54, R74). -/
def Obligations.BlockCountRegisters : Prop :=
  ∀ (s : State), BlocksReservedOnce s →
    (freeBlocks s).length + (allPorts.map fun h => (s.port h).reserved).sum = 256 ∧
    field (readWord s 0x012) 0 9 = (freeBlocks s).length ∧
    field (readWord s 0x013) 0 9 = (s.port 0).reserved ∧ field (readWord s 0x013) 16 9 = (s.port 1).reserved ∧
    field (readWord s 0x014) 0 9 = (s.port 2).reserved ∧ field (readWord s 0x014) 16 9 = (s.port 3).reserved

/-- ISSUE_GRANT at an open opportunity, with no retry to send and a port selected: the head's TREQ starts, a header credit
and the data credits of its length are spent, and a READ or WRITE takes the lowest-numbered FREE tag in ISSUED with its
class's deadline, noted in its entry, the index advanced and the stage moved (R7, R53, R60, R100, R156). A READ's first
grant reserves the lowest-numbered free blocks for the whole read, and the port's claim leaves the queue (R55). A POST takes
no tag, and after its last piece its slot is VACANT (R39, R53). The pointer and the burst count move by the port's weight
(R65). Which head is chosen: a port's head is its earliest record's next piece (R50); it is eligible under the conditions of
R58 and R59; the first eligible port from the pointer on is granted (R65). -/
def Obligations.IssueGrantSendsTheHead : Prop :=
  (∀ (p : PortState) (i : Slot),
    (p.firstInOrder = some i → ∃ r, p.slot i = some r ∧ WaitsForIssue r ∧
      ∀ j q, p.slot j = some q → WaitsForIssue q → (p.acceptSeq - q.seq).toNat ≤ (p.acceptSeq - r.seq).toNat) ∧
    (∀ r, p.slot i = some r → WaitsForIssue r →
      (∀ j q, j ≠ i → p.slot j = some q → WaitsForIssue q → (p.acceptSeq - q.seq).toNat < (p.acceptSeq - r.seq).toNat) →
      p.firstInOrder = some i)) ∧
  (∀ (s : State) (h : Port) (x : Head),
    (issueHead s h = some x ↔ HeadIs s h x) ∧
    (eligibleHead s h = some x ↔ HeadIs s h x ∧ MayGoButData s h x ∧ ¬ ShortOfData s x) ∧
    (selectPort s = some (h, x) ↔ eligibleHead s h = some x ∧
      ∀ g : Port, (g - s.arb.pointer).val < (h - s.arb.pointer).val → eligibleHead s g = none)) ∧
  (∀ (s : State) (h : Port) (x : Head) (k : TagKind) (tag : Tag), s.hold = none → s.target.link = .up →
    s.target.tx = .idle → eligibleRetry (evaluate s) = none → selectPort (evaluate s) = some (h, x) →
    x.record.kind.tagKind = some k → lowestFreeTag (evaluate s) = some tag →
    ∃ t q c, exec .issueGrant s = .next t ∧
      t.target.heldHdr = s.target.heldHdr - 1 ∧
      t.target.heldData = s.target.heldData - (if x.record.kind = .read then 0 else (x.piece.length + 63) / 64) ∧
      t.target.tx = .treq
        { kind := x.record.kind, tag := some tag, addr := x.target + BitVec.ofNat 40 x.piece.offset,
          length := x.piece.length,
          data := if x.record.kind = .read then []
                  else loadBytes (x.record.staging.map (·.val)) (s.port h).staging x.piece.offset x.piece.length } ∧
      s.tagRec tag = none ∧ (∀ z : Tag, z < tag → s.tagRec z ≠ none) ∧
      t.tagRec tag = some
        { port := h, session := (s.port h).session, slot := x.slot, sub := x.cut.next, kind := k,
          addr := x.target + BitVec.ofNat 40 x.piece.offset, length := x.piece.length, remaining := x.piece.length,
          retries := 0, orphaned := false,
          phase := .issued (s.timebase + BitVec.ofNat 32 (s.portPolicy h).timeouts[x.record.cls.toNat]) } ∧
      (∀ z, z ≠ tag → t.tagRec z = s.tagRec z) ∧
      (t.port h).slot x.slot = some q ∧ q.cut = some c ∧ c.next = x.cut.next + 1 ∧
      (c.subs[x.cut.next]?).map (·.tag) = some (some tag) ∧
      q.stage = (if x.cut.next + 1 < x.cut.subs.length then .issuing else .awaiting) ∧
      (x.record.kind = .read → x.first = true →
        q.blocks.length = (x.record.length + 63) / 64 ∧ q.blocks.Pairwise (· < ·) ∧
          (∀ b ∈ q.blocks, b ∉ reservedBlocks s ∧ ∀ a : Block, a < b → a ∉ reservedBlocks s → a ∈ q.blocks) ∧
          (∀ e ∈ t.arb.claims, e.1 ≠ h)) ∧
      ((x.record.kind = .write ∨ x.first = false) → q.blocks = x.record.blocks) ∧
      PointerMoved h s t ∧
      t.timebase = s.timebase ∧ t.policy = s.policy ∧ t.buffer = s.buffer ∧ t.log = s.log ∧ t.events = s.events) ∧
  ∀ (s : State) (h : Port) (x : Head), s.hold = none → s.target.link = .up → s.target.tx = .idle →
    eligibleRetry (evaluate s) = none → selectPort (evaluate s) = some (h, x) → x.record.kind = .post →
    ∃ t, exec .issueGrant s = .next t ∧ t.tags = s.tags ∧ t.target.heldHdr = s.target.heldHdr - 1 ∧
      t.target.heldData = s.target.heldData - (x.piece.length + 63) / 64 ∧
      (∃ q, t.target.tx = .treq q ∧ q.kind = .post ∧ q.tag = none ∧ q.length = x.piece.length ∧
        q.addr = x.target + BitVec.ofNat 40 x.piece.offset ∧
        q.data = loadBytes (x.record.staging.map (·.val)) (s.port h).staging x.piece.offset x.piece.length) ∧
      PointerMoved h s t ∧
      (x.cut.subs.length ≤ x.cut.next + 1 → (t.port h).slot x.slot = none) ∧
      (x.cut.next + 1 < x.cut.subs.length → ∃ q c, (t.port h).slot x.slot = some q ∧ q.stage = .issuing ∧
        q.cut = some c ∧ c.next = x.cut.next + 1)

/-- RETRY_GRANT at an open opportunity with an eligible head of the retry queue: the tag goes back to ISSUED with its
deadline and retry count, leaves the queue, and its TREQ is sent again, a READ's without data and a WRITE's with the same
data, read again from its record's staging blocks; the pointer and the burst count stand (R7, R62). The head is eligible
with a header credit and, for a WRITE, its data credits and no hold of another party (R62). -/
def Obligations.RetryGrantResendsTheHead : Prop :=
  (∀ (s : State) (x : Tag) (r : TagRec) (d : Tick),
    eligibleRetry s = some (x, r, d) ↔
      s.arb.retryQ.head? = some x ∧ s.tagRec x = some r ∧ (∃ e, r.phase = .backoff d e) ∧ 1 ≤ s.target.heldHdr ∧
        (r.kind = .write → (s.arb.dataHold = none ∨ s.arb.dataHold = some (.tag x)) ∧
          (r.length + 63) / 64 ≤ s.target.heldData)) ∧
  ∀ (s : State) (x : Tag) (r : TagRec) (d : Tick), s.hold = none → s.target.link = .up → s.target.tx = .idle →
    eligibleRetry (evaluate s) = some (x, r, d) →
    ∃ t, exec .retryGrant s = .next t ∧ t.tagRec x = some { r with phase := .issued d } ∧
      (∀ z, z ≠ x → t.tagRec z = s.tagRec z) ∧ x ∉ t.arb.retryQ ∧
      t.arb.pointer = s.arb.pointer ∧ t.arb.burst = s.arb.burst ∧
      t.target.heldHdr = s.target.heldHdr - 1 ∧
      t.target.heldData = s.target.heldData - (if r.kind = .read then 0 else (r.length + 63) / 64) ∧
      ∃ q, t.target.tx = .treq q ∧ q.tag = some x ∧ q.addr = r.addr ∧ q.length = r.length ∧
        q.kind = (match r.kind with | .read => .read | .write => .write) ∧ (r.kind = .read → q.data = []) ∧
        ∀ (w : ReqRec) (y : Sub), r.kind = .write → entryOf s r = some (w, y) → w.kind = .write →
          q.data = loadBytes (w.staging.map (·.val)) (s.port r.port).staging y.offset r.length

/-- READ_CEILING_RETIRE, CLAIM_ENTRY and DATA_CREDIT_HOLD at an open opportunity, as the phases of one evaluation (log 7). A
QUEUED READ at its port's head above a lowered block ceiling goes to READY with BAD_REQUEST (R51). Where none is, the ports
whose READs fit their ceiling and wait for blocks join the tail of the claim queue in round-robin order, each with its need
(R57). Where no hold stands, the retry head that waits only on data credits becomes the holder, and else the pointer port
whose head does; a hold that stands is left (R63). -/
def Obligations.EvaluationSettlesClaimsAndHold : Prop :=
  (∀ (s : State) (claims : List (Port × Nat)), s.hold = none → s.target.link = .up → s.target.tx = .idle →
    (∀ (h : Port) (i : Slot), overCeiling s h = some i →
      ∃ t r, exec .readCeilingRetire s = .next t ∧ (t.port h).slot i = some r ∧ r.stage = .ready ∧
        r.status = some .badRequest ∧ i ∈ (t.port h).respQ ∧ (∀ c ∈ t.arb.claims, c.1 ≠ h)) ∧
    ((∀ h : Port, overCeiling s h = none) →
      claims = s.arb.claims ++ ([0, 1, 2, 3] : List Port).filterMap
        (fun k => (claimDue s (s.arb.pointer + k)).map fun n => (s.arb.pointer + k, n)) →
      (∃ t, exec .claimEntry s = .next t ∧ t.arb = { s.arb with claims := claims } ∧
        (∀ g : Port, t.port g = report (s.port g)) ∧ { t with arb := s.arb, ports := s.ports } = s) ∧
      ∃ t, exec .dataCreditHold s = .next t ∧
        t.arb = { s.arb with claims := claims, dataHold := t.arb.dataHold } ∧
        (∀ g : Port, t.port g = report (s.port g)) ∧ { t with arb := s.arb, ports := s.ports } = s ∧
        (s.arb.dataHold ≠ none → t.arb.dataHold = s.arb.dataHold) ∧
        (s.arb.dataHold = none →
          (∀ x r d e, s.arb.retryQ.head? = some x → s.tagRec x = some r → r.phase = .backoff d e → r.kind = .write →
            1 ≤ s.target.heldHdr → s.target.heldData < (r.length + 63) / 64 → t.arb.dataHold = some (.tag x)) ∧
          ((∀ x r d e, s.arb.retryQ.head? = some x → s.tagRec x = some r → r.phase = .backoff d e →
              r.kind = .read ∨ s.target.heldHdr = 0 ∨ (r.length + 63) / 64 ≤ s.target.heldData) →
            t.arb.dataHold =
              if portWaitsOnData s s.arb.pointer = true then some (.port s.arb.pointer) else none)))) ∧
  ∀ (s : State) (h : Port),
    (∀ i : Slot, overCeiling s h = some i ↔ (s.port h).firstInOrder = some i ∧
      ∃ r, (s.port h).slot i = some r ∧ r.kind = .read ∧ r.stage = .queued ∧
        (s.portPolicy h).blockCeiling < (r.length + 63) / 64) ∧
    (∀ n : Nat, claimDue s h = some n ↔ ∃ x, HeadIs s h x ∧ x.first = true ∧ x.record.kind = .read ∧
      n = (x.record.length + 63) / 64 ∧ (∀ c ∈ s.arb.claims, c.1 ≠ h) ∧ s.arb.reshape = .idle ∧
      (s.port h).reserved + n ≤ (s.portPolicy h).blockCeiling ∧ (freeBlocks s).length < n) ∧
    (portWaitsOnData s h = true ↔ ∃ x, HeadIs s h x ∧ MayGoButData s h x ∧ ShortOfData s x)
end

