-- ==== Sys2Proof/Laws/Memory.lean ====
section
/-! SUPPORT. The byte memories: read after write, what a write leaves alone, and that every operation keeps the canonical
form. -/

namespace Sys2Proof.Machine

theorem Memory.wf_nil : Memory.wf [] := by simp [Memory.wf]

theorem Memory.wf_cons {c : Host.Cell} {m : Memory} :
    Memory.wf (c :: m) ↔ (∀ d ∈ m, c.1 < d.1) ∧ c.2 ≠ Memory.unlisted ∧ Memory.wf m := by
  simp only [Memory.wf, List.map_cons, List.pairwise_cons, List.mem_map, List.forall_mem_cons]
  constructor
  · rintro ⟨⟨h1, h2⟩, h3, h4⟩
    exact ⟨fun d hd => h1 _ ⟨d, hd, rfl⟩, h3, h2, h4⟩
  · rintro ⟨h1, h3, h2, h4⟩
    exact ⟨⟨by rintro _ ⟨d, hd, rfl⟩; exact h1 d hd, h2⟩, h3, h4⟩

/-- An address below every listed one is not listed. -/
theorem Memory.read_of_lt {m : Memory} {a : Nat} (h : ∀ d ∈ m, a < d.1) : m.read a = Memory.unlisted := by
  induction m with
  | nil => rfl
  | cons c m ih =>
    obtain ⟨x, v⟩ := c
    have hx : a < x := h (x, v) (by simp)
    have : a ≠ x := by omega
    simp only [Memory.read, this, if_false]
    exact ih fun d hd => h d (List.mem_cons_of_mem _ hd)

/-- What a write lists was listed before, or is the address written. -/
theorem Memory.mem_write {m : Memory} {a : Nat} {b : Byte} {d : Host.Cell} (h : d ∈ m.write a b) :
    d ∈ m ∨ d = (a, b) := by
  induction m with
  | nil => simp only [Memory.write] at h; split at h <;> simp_all
  | cons c m ih =>
    obtain ⟨x, v⟩ := c
    simp only [Memory.write] at h
    split at h
    · split at h
      · exact .inl h
      · simp only [List.mem_cons] at h ⊢
        grind
    · split at h
      · split at h
        · exact .inl (List.mem_cons_of_mem _ h)
        · simp only [List.mem_cons] at h ⊢
          grind
      · simp only [List.mem_cons] at h ⊢
        grind

/-- A write keeps the canonical form. -/
theorem Memory.wf_write {m : Memory} (h : m.wf) (a : Nat) (b : Byte) : (m.write a b).wf := by
  induction m with
  | nil => simp only [Memory.write]; split <;> simp_all [Memory.wf]
  | cons c m ih =>
    obtain ⟨x, v⟩ := c
    obtain ⟨h1, h2, h3⟩ := Memory.wf_cons.1 h
    simp only [Memory.write]
    split
    · split
      · exact h
      · refine Memory.wf_cons.2 ⟨?_, ‹_›, h⟩
        intro d hd
        rcases List.mem_cons.1 hd with rfl | hd
        · assumption
        · exact Nat.lt_trans ‹_› (h1 d hd)
    · split
      · split
        · exact h3
        · subst a; exact Memory.wf_cons.2 ⟨h1, ‹_›, h3⟩
      · refine Memory.wf_cons.2 ⟨?_, h2, ih h3⟩
        intro d hd
        rcases Memory.mem_write hd with hd | rfl
        · exact h1 d hd
        · simp only; omega

/-- A byte that has been written reads as the value written. -/
theorem Memory.read_write_same {m : Memory} (h : m.wf) (a : Nat) (b : Byte) : (m.write a b).read a = b := by
  induction m with
  | nil => simp only [Memory.write]; split <;> simp_all [Memory.read]
  | cons c m ih =>
    obtain ⟨x, v⟩ := c
    obtain ⟨h1, _, h3⟩ := Memory.wf_cons.1 h
    simp only [Memory.write]
    split
    · split
      · rw [Memory.read_of_lt]
        · exact (‹b = _›).symm
        · intro d hd
          rcases List.mem_cons.1 hd with rfl | hd
          · assumption
          · exact Nat.lt_trans ‹_› (h1 d hd)
      · simp [Memory.read]
    · split
      · split
        · subst a; rw [Memory.read_of_lt h1]; exact (‹b = _›).symm
        · simp [Memory.read]
      · have : a ≠ x := ‹_›
        simp only [Memory.read, this, if_false]
        exact ih h3

/-- A write leaves every other byte alone. -/
theorem Memory.read_write_ne (m : Memory) {a c : Nat} (b : Byte) (hc : c ≠ a) : (m.write a b).read c = m.read c := by
  induction m with
  | nil => simp only [Memory.write]; split <;> simp [Memory.read, hc]
  | cons d m ih =>
    obtain ⟨x, v⟩ := d
    simp only [Memory.write]
    split
    · split <;> simp [Memory.read, hc]
    · split
      · subst x
        split <;> simp [Memory.read, hc]
      · simp only [Memory.read, ih]

/-! Block lists (R55) -/

/-- Storing bytes through a block list keeps the canonical form. -/
theorem wf_storeBytes {m : Memory} (h : m.wf) (blocks : List Nat) (o : Nat) (data : List Byte) :
    (storeBytes blocks o data m).wf := by
  induction data generalizing o m with
  | nil => exact h
  | cons b rest ih =>
    simp only [storeBytes]
    apply ih
    split
    · exact Memory.wf_write h _ _
    · exact h

/-- Stored bytes stay within the blocks listed. -/
theorem read_storeBytes_outside (blocks : List Nat) (o : Nat) (data : List Byte) (m : Memory) (a : Nat)
    (ha : ∀ b ∈ blocks, a / 64 ≠ b) : (storeBytes blocks o data m).read a = m.read a := by
  induction data generalizing o m with
  | nil => rfl
  | cons b rest ih =>
    simp only [storeBytes]
    rw [ih]
    split
    · rename_i x hx
      apply Memory.read_write_ne
      rintro rfl
      simp only [byteAddr, Option.map_eq_some_iff] at hx
      obtain ⟨c, hc, rfl⟩ := hx
      refine ha c (List.mem_of_getElem? hc) ?_
      omega
    · rfl

/-- Two offsets of one request lie at different addresses while no block is listed twice. -/
theorem byteAddr_inj {blocks : List Nat} (hb : blocks.Nodup) {o p a : Nat} (ho : byteAddr blocks o = some a)
    (hp : byteAddr blocks p = some a) : o = p := by
  simp only [byteAddr, Option.map_eq_some_iff] at ho hp
  obtain ⟨x, hx, rfl⟩ := ho
  obtain ⟨y, hy, hxy⟩ := hp
  have e : x = y := by omega
  subst e
  obtain ⟨h1, h1'⟩ := List.getElem?_eq_some_iff.1 hx
  obtain ⟨h2, h2'⟩ := List.getElem?_eq_some_iff.1 hy
  have : o / 64 = p / 64 := (List.Nodup.getElem_inj_iff hb).1 (h1'.trans h2'.symm)
  omega

/-- Bytes stored from an offset on leave the bytes at lower offsets of the request. -/
theorem read_storeBytes_below {blocks : List Nat} (hb : blocks.Nodup) (data : List Byte) (m : Memory) {o p a : Nat}
    (hp : byteAddr blocks p = some a) (hlt : p < o) : (storeBytes blocks o data m).read a = m.read a := by
  induction data generalizing o m with
  | nil => rfl
  | cons b rest ih =>
    simp only [storeBytes]
    rw [ih _ (by omega : p < o + 1)]
    split
    · rename_i x hx
      apply Memory.read_write_ne
      rintro rfl
      have := byteAddr_inj hb hp hx
      omega
    · rfl

/-- Bytes stored through a block list read back through it (R28, R44, R80). -/
theorem loadBytes_storeBytes {blocks : List Nat} (hb : blocks.Nodup) {m : Memory} (hm : m.wf) (o : Nat)
    (data : List Byte) (hlen : o + data.length ≤ 64 * blocks.length) :
    loadBytes blocks (storeBytes blocks o data m) o data.length = data := by
  induction data generalizing o m with
  | nil => rfl
  | cons b rest ih =>
    simp only [List.length_cons] at hlen
    have hi : o / 64 < blocks.length := by omega
    have ha : byteAddr blocks o = some (64 * blocks[o / 64] + o % 64) := by simp [byteAddr, hi]
    simp only [storeBytes, List.length_cons, loadBytes, ha]
    rw [read_storeBytes_below hb rest _ ha (Nat.lt_succ_self o), Memory.read_write_same hm,
      ih (Memory.wf_write hm _ _) (o + 1) (by omega)]

/-- The memories are canonical after reset. -/
theorem reset_memories_wf : State.reset.buffer.wf ∧ PortState.reset.staging.wf := ⟨Memory.wf_nil, Memory.wf_nil⟩

end Sys2Proof.Machine
end

