-- ==== Sys2Proof/Laws/State.lean ====
section
/-! SUPPORT. What each update of the state leaves: one lemma for each field and each update, so that no later proof unfolds
a record update. -/

namespace Sys2Proof.Machine

/-! Tables -/

@[simp] theorem getElem_mapTable {α : Type} {n : Nat} (f : Fin n → α → α) (v : Vector α n) (i : Nat) (hi : i < n) :
    (mapTable f v)[i] = f ⟨i, hi⟩ v[i] := by
  simp [mapTable]

theorem mapTable_eq_self {α : Type} {n : Nat} (f : Fin n → α → α) (v : Vector α n)
    (hf : ∀ i : Fin n, f i v[i.val] = v[i.val]) : mapTable f v = v := by
  ext i hi
  simpa using hf ⟨i, hi⟩

/-! One port -/

@[simp] theorem port_modPort_same (s : State) (h : Port) (f : PortState → PortState) :
    (s.modPort h f).port h = f (s.port h) := by
  simp [State.modPort, State.port]

theorem port_modPort_ne (s : State) {h g : Port} (f : PortState → PortState) (hg : g ≠ h) :
    (s.modPort h f).port g = s.port g := by
  have : h.val ≠ g.val := fun e => hg (Fin.ext e.symm)
  simp [State.modPort, State.port, Vector.getElem_set_ne, this]

theorem port_modPort (s : State) (h g : Port) (f : PortState → PortState) :
    (s.modPort h f).port g = if g = h then f (s.port g) else s.port g := by
  split
  · subst g; exact port_modPort_same s h f
  · exact port_modPort_ne s f ‹_›

@[simp] theorem modPort_pending (s : State) (h : Port) (f : PortState → PortState) :
    (s.modPort h f).pending = s.pending := rfl
@[simp] theorem modPort_hold (s : State) (h : Port) (f : PortState → PortState) : (s.modPort h f).hold = s.hold := rfl
@[simp] theorem modPort_timebase (s : State) (h : Port) (f : PortState → PortState) :
    (s.modPort h f).timebase = s.timebase := rfl
@[simp] theorem modPort_tags (s : State) (h : Port) (f : PortState → PortState) : (s.modPort h f).tags = s.tags := rfl
@[simp] theorem modPort_buffer (s : State) (h : Port) (f : PortState → PortState) :
    (s.modPort h f).buffer = s.buffer := rfl
@[simp] theorem modPort_arb (s : State) (h : Port) (f : PortState → PortState) : (s.modPort h f).arb = s.arb := rfl
@[simp] theorem modPort_target (s : State) (h : Port) (f : PortState → PortState) :
    (s.modPort h f).target = s.target := rfl
@[simp] theorem modPort_log (s : State) (h : Port) (f : PortState → PortState) : (s.modPort h f).log = s.log := rfl
@[simp] theorem modPort_events (s : State) (h : Port) (f : PortState → PortState) :
    (s.modPort h f).events = s.events := rfl
@[simp] theorem modPort_policy (s : State) (h : Port) (f : PortState → PortState) :
    (s.modPort h f).policy = s.policy := rfl
@[simp] theorem modPort_mgmt (s : State) (h : Port) (f : PortState → PortState) : (s.modPort h f).mgmt = s.mgmt := rfl
@[simp] theorem modPort_tagRec (s : State) (h : Port) (f : PortState → PortState) (t : Tag) :
    (s.modPort h f).tagRec t = s.tagRec t := rfl
@[simp] theorem modPort_portPolicy (s : State) (h : Port) (f : PortState → PortState) (g : Port) :
    (s.modPort h f).portPolicy g = s.portPolicy g := rfl
@[simp] theorem modPort_targetUp (s : State) (h : Port) (f : PortState → PortState) :
    (s.modPort h f).targetUp = s.targetUp := rfl

/-- Rewriting a port changes the ports alone. -/
theorem modPort_frame (s : State) (h : Port) (f : PortState → PortState) :
    { s.modPort h f with ports := s.ports } = s := rfl

theorem modPort_modPort_same (s : State) (h : Port) (f g : PortState → PortState) :
    (s.modPort h f).modPort h g = s.modPort h (fun p => g (f p)) := by
  simp [State.modPort, State.port]

/-- Rewriting a port to what it is changes nothing. -/
theorem modPort_eq_self (s : State) (h : Port) (f : PortState → PortState) (hf : f (s.port h) = s.port h) :
    s.modPort h f = s := by
  rw [State.modPort, hf]; simp [State.port]

/-- Two states with the same ports and the same other fields are equal. -/
theorem eq_of_port_eq {s t : State} (hp : ∀ h : Port, t.port h = s.port h) (hf : { t with ports := s.ports } = s) :
    t = s := by
  have : t.ports = s.ports := by
    ext i hi
    exact hp ⟨i, hi⟩
  rw [← hf, ← this]

/-! All ports -/

theorem modPorts_eq (s : State) (f : PortState → PortState) :
    s.modPorts f = (((s.modPort 0 f).modPort 1 f).modPort 2 f).modPort 3 f := rfl

@[simp] theorem port_modPorts (s : State) (f : PortState → PortState) (h : Port) :
    (s.modPorts f).port h = f (s.port h) := by
  rw [modPorts_eq]
  match h with
  | 0 => simp [port_modPort]
  | 1 => simp [port_modPort]
  | 2 => simp [port_modPort]
  | 3 => simp [port_modPort]

@[simp] theorem modPorts_pending (s : State) (f : PortState → PortState) : (s.modPorts f).pending = s.pending := rfl
@[simp] theorem modPorts_hold (s : State) (f : PortState → PortState) : (s.modPorts f).hold = s.hold := rfl
@[simp] theorem modPorts_timebase (s : State) (f : PortState → PortState) : (s.modPorts f).timebase = s.timebase := rfl
@[simp] theorem modPorts_tags (s : State) (f : PortState → PortState) : (s.modPorts f).tags = s.tags := rfl
@[simp] theorem modPorts_buffer (s : State) (f : PortState → PortState) : (s.modPorts f).buffer = s.buffer := rfl
@[simp] theorem modPorts_arb (s : State) (f : PortState → PortState) : (s.modPorts f).arb = s.arb := rfl
@[simp] theorem modPorts_target (s : State) (f : PortState → PortState) : (s.modPorts f).target = s.target := rfl
@[simp] theorem modPorts_log (s : State) (f : PortState → PortState) : (s.modPorts f).log = s.log := rfl
@[simp] theorem modPorts_events (s : State) (f : PortState → PortState) : (s.modPorts f).events = s.events := rfl
@[simp] theorem modPorts_policy (s : State) (f : PortState → PortState) : (s.modPorts f).policy = s.policy := rfl
@[simp] theorem modPorts_mgmt (s : State) (f : PortState → PortState) : (s.modPorts f).mgmt = s.mgmt := rfl
@[simp] theorem modPorts_tagRec (s : State) (f : PortState → PortState) (t : Tag) :
    (s.modPorts f).tagRec t = s.tagRec t := rfl
@[simp] theorem modPorts_portPolicy (s : State) (f : PortState → PortState) (g : Port) :
    (s.modPorts f).portPolicy g = s.portPolicy g := rfl

theorem modPorts_frame (s : State) (f : PortState → PortState) : { s.modPorts f with ports := s.ports } = s := rfl

/-! The reports of R127 -/

@[simp] theorem port_reportAll (s : State) (h : Port) : (reportAll s).port h = report (s.port h) :=
  port_modPorts s report h

@[simp] theorem reportAll_pending (s : State) : (reportAll s).pending = s.pending := rfl
@[simp] theorem reportAll_hold (s : State) : (reportAll s).hold = s.hold := rfl
@[simp] theorem reportAll_timebase (s : State) : (reportAll s).timebase = s.timebase := rfl
@[simp] theorem reportAll_tags (s : State) : (reportAll s).tags = s.tags := rfl
@[simp] theorem reportAll_buffer (s : State) : (reportAll s).buffer = s.buffer := rfl
@[simp] theorem reportAll_arb (s : State) : (reportAll s).arb = s.arb := rfl
@[simp] theorem reportAll_target (s : State) : (reportAll s).target = s.target := rfl
@[simp] theorem reportAll_log (s : State) : (reportAll s).log = s.log := rfl
@[simp] theorem reportAll_events (s : State) : (reportAll s).events = s.events := rfl
@[simp] theorem reportAll_policy (s : State) : (reportAll s).policy = s.policy := rfl
@[simp] theorem reportAll_mgmt (s : State) : (reportAll s).mgmt = s.mgmt := rfl
@[simp] theorem reportAll_tagRec (s : State) (t : Tag) : (reportAll s).tagRec t = s.tagRec t := rfl

theorem reportAll_frame (s : State) : { reportAll s with ports := s.ports } = s := rfl

/-- A report touches a port's stall mode and stall count alone. -/
theorem report_frame (p : PortState) :
    { report p with stallMode := p.stallMode, stallCount := p.stallCount } = p := by
  unfold report
  split
  · rfl
  · split
    · rfl
    · split
      · rfl
      · split <;> rfl

/-- A port with no session reports nothing. -/
theorem report_of_not_active {p : PortState} (h : p.isActive = false) : report p = p := by simp [report, h]

/-! Tags -/

@[simp] theorem tagRec_setTag_same (s : State) (t : Tag) (r : Option TagRec) : (s.setTag t r).tagRec t = r := by
  simp [State.setTag, State.tagRec]

theorem tagRec_setTag_ne (s : State) {t u : Tag} (r : Option TagRec) (hu : u ≠ t) :
    (s.setTag t r).tagRec u = s.tagRec u := by
  have : t.val ≠ u.val := fun e => hu (Fin.ext e.symm)
  simp [State.setTag, State.tagRec, Vector.getElem_set_ne, this]

theorem tagRec_setTag (s : State) (t u : Tag) (r : Option TagRec) :
    (s.setTag t r).tagRec u = if u = t then r else s.tagRec u := by
  split
  · subst u; exact tagRec_setTag_same s t r
  · exact tagRec_setTag_ne s r ‹_›

@[simp] theorem setTag_pending (s : State) (t : Tag) (r : Option TagRec) : (s.setTag t r).pending = s.pending := rfl
@[simp] theorem setTag_hold (s : State) (t : Tag) (r : Option TagRec) : (s.setTag t r).hold = s.hold := rfl
@[simp] theorem setTag_timebase (s : State) (t : Tag) (r : Option TagRec) : (s.setTag t r).timebase = s.timebase := rfl
@[simp] theorem setTag_ports (s : State) (t : Tag) (r : Option TagRec) : (s.setTag t r).ports = s.ports := rfl
@[simp] theorem setTag_port (s : State) (t : Tag) (r : Option TagRec) (h : Port) :
    (s.setTag t r).port h = s.port h := rfl
@[simp] theorem setTag_buffer (s : State) (t : Tag) (r : Option TagRec) : (s.setTag t r).buffer = s.buffer := rfl
@[simp] theorem setTag_arb (s : State) (t : Tag) (r : Option TagRec) : (s.setTag t r).arb = s.arb := rfl
@[simp] theorem setTag_target (s : State) (t : Tag) (r : Option TagRec) : (s.setTag t r).target = s.target := rfl
@[simp] theorem setTag_log (s : State) (t : Tag) (r : Option TagRec) : (s.setTag t r).log = s.log := rfl
@[simp] theorem setTag_events (s : State) (t : Tag) (r : Option TagRec) : (s.setTag t r).events = s.events := rfl
@[simp] theorem setTag_policy (s : State) (t : Tag) (r : Option TagRec) : (s.setTag t r).policy = s.policy := rfl
@[simp] theorem setTag_mgmt (s : State) (t : Tag) (r : Option TagRec) : (s.setTag t r).mgmt = s.mgmt := rfl
@[simp] theorem setTag_portPolicy (s : State) (t : Tag) (r : Option TagRec) (h : Port) :
    (s.setTag t r).portPolicy h = s.portPolicy h := rfl

theorem setTag_frame (s : State) (t : Tag) (r : Option TagRec) : { s.setTag t r with tags := s.tags } = s := rfl

/-! Events -/

@[simp] theorem raiseEvent_pending (e : Nat) (s : State) : (raiseEvent e s).pending = s.pending := rfl
@[simp] theorem raiseEvent_hold (e : Nat) (s : State) : (raiseEvent e s).hold = s.hold := rfl
@[simp] theorem raiseEvent_timebase (e : Nat) (s : State) : (raiseEvent e s).timebase = s.timebase := rfl
@[simp] theorem raiseEvent_ports (e : Nat) (s : State) : (raiseEvent e s).ports = s.ports := rfl
@[simp] theorem raiseEvent_port (e : Nat) (s : State) (h : Port) : (raiseEvent e s).port h = s.port h := rfl
@[simp] theorem raiseEvent_tags (e : Nat) (s : State) : (raiseEvent e s).tags = s.tags := rfl
@[simp] theorem raiseEvent_tagRec (e : Nat) (s : State) (t : Tag) : (raiseEvent e s).tagRec t = s.tagRec t := rfl
@[simp] theorem raiseEvent_buffer (e : Nat) (s : State) : (raiseEvent e s).buffer = s.buffer := rfl
@[simp] theorem raiseEvent_arb (e : Nat) (s : State) : (raiseEvent e s).arb = s.arb := rfl
@[simp] theorem raiseEvent_target (e : Nat) (s : State) : (raiseEvent e s).target = s.target := rfl
@[simp] theorem raiseEvent_log (e : Nat) (s : State) : (raiseEvent e s).log = s.log := rfl
@[simp] theorem raiseEvent_policy (e : Nat) (s : State) : (raiseEvent e s).policy = s.policy := rfl
@[simp] theorem raiseEvent_mgmt (e : Nat) (s : State) : (raiseEvent e s).mgmt = s.mgmt := rfl
@[simp] theorem raiseEvent_enable (e : Nat) (s : State) : (raiseEvent e s).events.enable = s.events.enable := rfl

/-- A raised occurrence is pending, and the others stand (R171). -/
theorem getLsbD_occ_raiseEvent (e i : Nat) (s : State) (he : e < 16) :
    (raiseEvent e s).events.occ.getLsbD i = (s.events.occ.getLsbD i || decide (i = e)) := by
  simp only [raiseEvent, BitVec.getLsbD_or, BitVec.getLsbD_shiftLeft, BitVec.getLsbD_one]
  congr 1
  rw [Bool.eq_iff_iff]
  simp
  omega

/-! The log -/

@[simp] theorem appendLog_pending (e : LogEntry) (s : State) : (appendLog e s).pending = s.pending := by
  unfold appendLog; dsimp only; split <;> rfl
@[simp] theorem appendLog_hold (e : LogEntry) (s : State) : (appendLog e s).hold = s.hold := by
  unfold appendLog; dsimp only; split <;> rfl
@[simp] theorem appendLog_timebase (e : LogEntry) (s : State) : (appendLog e s).timebase = s.timebase := by
  unfold appendLog; dsimp only; split <;> rfl
@[simp] theorem appendLog_ports (e : LogEntry) (s : State) : (appendLog e s).ports = s.ports := by
  unfold appendLog; dsimp only; split <;> rfl
@[simp] theorem appendLog_port (e : LogEntry) (s : State) (h : Port) : (appendLog e s).port h = s.port h := by
  simp [State.port]
@[simp] theorem appendLog_tags (e : LogEntry) (s : State) : (appendLog e s).tags = s.tags := by
  unfold appendLog; dsimp only; split <;> rfl
@[simp] theorem appendLog_tagRec (e : LogEntry) (s : State) (t : Tag) : (appendLog e s).tagRec t = s.tagRec t := by
  simp [State.tagRec]
@[simp] theorem appendLog_buffer (e : LogEntry) (s : State) : (appendLog e s).buffer = s.buffer := by
  unfold appendLog; dsimp only; split <;> rfl
@[simp] theorem appendLog_arb (e : LogEntry) (s : State) : (appendLog e s).arb = s.arb := by
  unfold appendLog; dsimp only; split <;> rfl
@[simp] theorem appendLog_target (e : LogEntry) (s : State) : (appendLog e s).target = s.target := by
  unfold appendLog; dsimp only; split <;> rfl
@[simp] theorem appendLog_policy (e : LogEntry) (s : State) : (appendLog e s).policy = s.policy := by
  unfold appendLog; dsimp only; split <;> rfl
@[simp] theorem appendLog_portPolicy (e : LogEntry) (s : State) (h : Port) :
    (appendLog e s).portPolicy h = s.portPolicy h := by
  simp [State.portPolicy]
@[simp] theorem appendLog_mgmt (e : LogEntry) (s : State) : (appendLog e s).mgmt = s.mgmt := by
  unfold appendLog; dsimp only; split <;> rfl
@[simp] theorem appendLog_enable (e : LogEntry) (s : State) : (appendLog e s).events.enable = s.events.enable := by
  unfold appendLog; dsimp only; split <;> rfl

/-- An append changes the log and the occurrence bits alone. -/
theorem appendLog_frame (e : LogEntry) (s : State) :
    { appendLog e s with log := s.log, events := s.events } = s := by
  unfold appendLog; dsimp only; split <;> rfl

/-- The log after an append, whether it was full or not (R164, R167). -/
theorem appendLog_log (e : LogEntry) (s : State) :
    (appendLog e s).log =
      { s.log with records := (if s.log.records.length < 32 then s.log.records else s.log.records.tail) ++
                      [{ seq := s.log.next, tick := s.timebase, entry := e }],
                   next := s.log.next + 1 } := by
  unfold appendLog; dsimp only; split <;> simp [raiseEvent]

/-- An append clears no occurrence bit. -/
theorem getLsbD_occ_appendLog (e : LogEntry) (s : State) {i : Nat} (hi : s.events.occ.getLsbD i = true) :
    (appendLog e s).events.occ.getLsbD i = true := by
  unfold appendLog
  dsimp only
  split
  · exact hi
  · simp [raiseEvent, hi]

end Sys2Proof.Machine
end

