-- ==== Sys2Proof/Laws/Ops.lean ====
section
/-! SUPPORT. What the shared operations over slots, tags, records and the drain do, said once for each. -/

namespace Sys2Proof.Machine

/-! Slots -/

@[simp] theorem slot_setSlot_same (p : PortState) (i : Slot) (r : Option ReqRec) : (p.setSlot i r).slot i = r := by
  simp [PortState.setSlot, PortState.slot]

theorem slot_setSlot_ne (p : PortState) {i j : Slot} (r : Option ReqRec) (hj : j ≠ i) :
    (p.setSlot i r).slot j = p.slot j := by
  have : i.val ≠ j.val := fun e => hj (Fin.ext e.symm)
  simp [PortState.setSlot, PortState.slot, Vector.getElem_set_ne, this]

theorem slot_setSlot (p : PortState) (i j : Slot) (r : Option ReqRec) :
    (p.setSlot i r).slot j = if j = i then r else p.slot j := by
  split
  · subst j; exact slot_setSlot_same p i r
  · exact slot_setSlot_ne p r ‹_›

/-- The slots as a list, split at one slot: what is on either side of it stands when it is written. -/
theorem slots_split (p : PortState) (i : Slot) :
    ∃ A B : List (Option ReqRec), A.length = i.val ∧ p.slots.toList = A ++ p.slot i :: B ∧
      ∀ r, (p.setSlot i r).slots.toList = A ++ r :: B := by
  have hi : i.val < p.slots.toList.length := by simp
  refine ⟨p.slots.toList.take i.val, p.slots.toList.drop (i.val + 1), by simp, ?_, ?_⟩
  · have : p.slot i = p.slots.toList[i.val] := by simp [PortState.slot]
    rw [this, ← List.drop_eq_getElem_cons hi, List.take_append_drop]
  · intro r
    have : (p.setSlot i r).slots.toList = p.slots.toList.set i.val r := by
      simp [PortState.setSlot, Vector.toList_set]
    rw [this, List.set_eq_take_append_cons_drop, if_pos hi]

/-- The tags as a list, split at one tag. -/
theorem tags_split (s : State) (t : Tag) :
    ∃ A B : List (Option TagRec), A.length = t.val ∧ s.tags.toList = A ++ s.tagRec t :: B ∧
      ∀ r, (s.setTag t r).tags.toList = A ++ r :: B := by
  have hi : t.val < s.tags.toList.length := by simp
  refine ⟨s.tags.toList.take t.val, s.tags.toList.drop (t.val + 1), by simp, ?_, ?_⟩
  · have : s.tagRec t = s.tags.toList[t.val] := by simp [State.tagRec]
    rw [this, ← List.drop_eq_getElem_cons hi, List.take_append_drop]
  · intro r
    have : (s.setTag t r).tags.toList = s.tags.toList.set t.val r := by simp [State.setTag, Vector.toList_set]
    rw [this, List.set_eq_take_append_cons_drop, if_pos hi]

/-- Rewriting an occupied slot to another record with the same staging blocks changes no count. -/
theorem setSlot_some_counts (p : PortState) {i : Slot} {r : ReqRec} (q : ReqRec) (hr : p.slot i = some r)
    (hs : q.staging = r.staging) :
    (p.setSlot i (some q)).occupied = p.occupied ∧ (p.setSlot i (some q)).heldStaging = p.heldStaging := by
  obtain ⟨A, B, _, h1, h2⟩ := slots_split p i
  simp [PortState.occupied, PortState.heldStaging, PortState.records, h1, h2, hr, hs]

/-- Vacating an occupied slot lowers the occupied count by one. -/
theorem setSlot_none_occupied (p : PortState) {i : Slot} {r : ReqRec} (hr : p.slot i = some r) :
    (p.setSlot i none).occupied + 1 = p.occupied := by
  obtain ⟨A, B, _, h1, h2⟩ := slots_split p i
  simp only [PortState.occupied, PortState.records, h1, h2, hr, List.filterMap_append, List.length_append,
    List.filterMap_cons, id_eq, List.length_cons]
  omega

/-- The held staging blocks are those of one slot and the rest, whatever the slot is rewritten to. -/
theorem heldStaging_setSlot (p : PortState) (i : Slot) :
    ∃ A B : List StageBlock, p.heldStaging = A ++ ((p.slot i).map (·.staging)).getD [] ++ B ∧
      ∀ r : Option ReqRec, (p.setSlot i r).heldStaging = A ++ (r.map (·.staging)).getD [] ++ B := by
  obtain ⟨A, B, _, h1, h2⟩ := slots_split p i
  refine ⟨(A.filterMap id).flatMap (·.staging), (B.filterMap id).flatMap (·.staging), ?_, ?_⟩
  · cases h : p.slot i <;> simp [PortState.heldStaging, PortState.records, h1, h]
  · intro r
    cases r <;> simp [PortState.heldStaging, PortState.records, h2]

/-! Records leaving and entering stages -/

/-- vacate on an occupied slot (R28, R45). -/
theorem vacate_of_some {p : PortState} {i : Slot} {r : ReqRec} (hr : p.slot i = some r) :
    vacate i p = { p.setSlot i none with retHdr := p.retHdr + 1, retData := p.retData + r.staging.length } := by
  simp [vacate, hr, giveBack, PortState.setSlot]

/-- enterReady on an occupied slot (R42, R43). -/
theorem enterReady_of_some {p : PortState} {i : Slot} {r : ReqRec} (hr : p.slot i = some r) (st : HostStatus) :
    enterReady i st p =
      { p.setSlot i (some { r with stage := .ready, status := some st, staging := [] }) with
        respQ := p.respQ ++ [i], fenceFault := p.fenceFault || st.failing, retData := p.retData + r.staging.length } := by
  simp [enterReady, hr, giveBack, PortState.setSlot]

/-- What fenceStep can do: nothing, where no FENCE may enter READY; else the FENCE enters READY and the flag is cleared
(R41, R42). -/
theorem fenceStep_cases (p : PortState) :
    (p.readyFence = none ∧ fenceStep p = p) ∨
      ∃ i r, p.readyFence = some i ∧ p.slot i = some r ∧ r.kind = .fence ∧ r.inIssueOrder = true ∧
        fenceStep p =
          { p.setSlot i (some { r with stage := .ready, status := some (if p.fenceFault then .faultSeen else .ok),
                                       staging := [] }) with
            respQ := p.respQ ++ [i], fenceFault := false, retData := p.retData + r.staging.length } := by
  unfold fenceStep
  cases hf : p.readyFence with
  | none => exact .inl ⟨rfl, rfl⟩
  | some i =>
    right
    unfold PortState.readyFence at hf
    cases ho : p.firstInOrder with
    | none => simp [ho] at hf
    | some j =>
      cases hs : p.slot j with
      | none => simp [ho, hs] at hf
      | some r =>
        simp only [ho, hs] at hf
        split at hf
        · rename_i hk
          simp only [Option.some.injEq] at hf
          subst hf
          simp only [Bool.and_eq_true, beq_iff_eq] at hk
          have hw : p.waitsForIssue j = true := List.find?_some ho
          simp only [PortState.waitsForIssue, hs] at hw
          exact ⟨j, r, rfl, hs, hk.1, hw, by simp only; rw [enterReady_of_some hs]⟩
        · cases hf

/-- Apply an operation that keeps a property, and the property is kept however often it is applied. -/
theorem repeated_keeps {α : Type} {P : α → Prop} {f : α → α} (hf : ∀ a, P a → P (f a)) (n : Nat) {a : α} (ha : P a) :
    P (repeated f n a) := by
  induction n generalizing a with
  | zero => exact ha
  | succ n ih => exact ih (hf a ha)

/-- Where an operation changes nothing, repeating it changes nothing. -/
theorem repeated_of_fixed {α : Type} {f : α → α} {a : α} (hf : f a = a) (n : Nat) : repeated f n a = a := by
  induction n with
  | zero => rfl
  | succ n ih => rw [repeated, hf, ih]

/-- A port whose head is no ready FENCE is left by the FENCE test. -/
theorem fenceTest_of_none {p : PortState} (h : p.readyFence = none) : fenceTest p = p :=
  repeated_of_fixed (by simp [fenceStep, h]) 16

/-! A fold over a list that keeps a property -/

theorem foldl_keeps {α β : Type} {P : α → Prop} {f : α → β → α} (hf : ∀ a b, P a → P (f a b)) (l : List β) {a : α}
    (ha : P a) : P (l.foldl f a) := by
  induction l generalizing a with
  | nil => exact ha
  | cons b l ih => exact ih (hf a b ha)

theorem foldl_of_fixed {α β : Type} {f : α → β → α} {a : α} (l : List β) (hf : ∀ b ∈ l, f a b = a) :
    l.foldl f a = a := by
  induction l with
  | nil => rfl
  | cons b l ih =>
    rw [List.foldl_cons, hf b (by simp)]
    exact ih fun c hc => hf c (List.mem_cons_of_mem _ hc)

/-! What takes leaves -/

/-- Outside the reset hold an event is taken; in it nothing changes (R189). -/
theorem takes_next {s : State} (h : s.hold = none) (f : State → State) : takes f s = .next (f s) := by
  simp [takes, State.inHold, h]

theorem takes_of_hold {s : State} (h : s.hold ≠ none) (f : State → State) : takes f s = .next s := by
  have : s.inHold = true := by simp [State.inHold, Option.isSome_iff_ne_none, h]
  simp [takes, this]

/-- An event taken keeps whatever its effect keeps. -/
theorem takes_keeps {P : State → Prop} {f : State → State} (hf : ∀ s, P s → P (f s)) {s t : State} (hs : P s)
    (ht : takes f s = .next t) : P t := by
  simp only [takes, Host.Outcome.next.injEq] at ht
  subst ht
  split
  · exact hs
  · exact hf s hs

/-! The drain -/

@[simp] theorem completeDrain_pending (m : Mrs) (s : State) : (completeDrain m s).pending = s.pending := rfl
@[simp] theorem completeDrain_hold (m : Mrs) (s : State) : (completeDrain m s).hold = s.hold := rfl
@[simp] theorem completeDrain_timebase (m : Mrs) (s : State) : (completeDrain m s).timebase = s.timebase := rfl
@[simp] theorem completeDrain_ports (m : Mrs) (s : State) : (completeDrain m s).ports = s.ports := rfl
@[simp] theorem completeDrain_tags (m : Mrs) (s : State) : (completeDrain m s).tags = s.tags := rfl
@[simp] theorem completeDrain_buffer (m : Mrs) (s : State) : (completeDrain m s).buffer = s.buffer := rfl
@[simp] theorem completeDrain_log (m : Mrs) (s : State) : (completeDrain m s).log = s.log := rfl
@[simp] theorem completeDrain_policy (m : Mrs) (s : State) : (completeDrain m s).policy = s.policy := rfl
@[simp] theorem completeDrain_mgmt (m : Mrs) (s : State) : (completeDrain m s).mgmt = s.mgmt := rfl

/-- What the drain test can do: nothing, or the completion of a drain that is clear (R66, R68). -/
theorem drainTest_cases (s : State) :
    drainTest s = s ∨ ∃ m x y, s.arb.reshape = .draining m x y ∧ drainClear s = true ∧ drainTest s = completeDrain m s := by
  unfold drainTest
  split
  · exact .inl rfl
  · split
    · exact .inr ⟨_, _, _, ‹_›, ‹_›, rfl⟩
    · exact .inl rfl

theorem drainTest_of_idle {s : State} (h : s.arb.reshape = .idle) : drainTest s = s := by simp [drainTest, h]

@[simp] theorem drainTest_pending (s : State) : (drainTest s).pending = s.pending := by
  unfold drainTest; split <;> [rfl; (split <;> rfl)]
@[simp] theorem drainTest_hold (s : State) : (drainTest s).hold = s.hold := by
  unfold drainTest; split <;> [rfl; (split <;> rfl)]
@[simp] theorem drainTest_timebase (s : State) : (drainTest s).timebase = s.timebase := by
  unfold drainTest; split <;> [rfl; (split <;> rfl)]
@[simp] theorem drainTest_ports (s : State) : (drainTest s).ports = s.ports := by
  unfold drainTest; split <;> [rfl; (split <;> rfl)]
@[simp] theorem drainTest_tags (s : State) : (drainTest s).tags = s.tags := by
  unfold drainTest; split <;> [rfl; (split <;> rfl)]
@[simp] theorem drainTest_buffer (s : State) : (drainTest s).buffer = s.buffer := by
  unfold drainTest; split <;> [rfl; (split <;> rfl)]
@[simp] theorem drainTest_log (s : State) : (drainTest s).log = s.log := by
  unfold drainTest; split <;> [rfl; (split <;> rfl)]
@[simp] theorem drainTest_policy (s : State) : (drainTest s).policy = s.policy := by
  unfold drainTest; split <;> [rfl; (split <;> rfl)]
@[simp] theorem drainTest_mgmt (s : State) : (drainTest s).mgmt = s.mgmt := by
  unfold drainTest; split <;> [rfl; (split <;> rfl)]

@[simp] theorem drainTest_port (s : State) (h : Port) : (drainTest s).port h = s.port h := by simp [State.port]
@[simp] theorem drainTest_tagRec (s : State) (t : Tag) : (drainTest s).tagRec t = s.tagRec t := by simp [State.tagRec]

/-- A drain test touches the reshape fields of the arbiter alone. -/
theorem drainTest_arb (s : State) :
    { (drainTest s).arb with reshape := s.arb.reshape, outcome := s.arb.outcome, configuredMrs := s.arb.configuredMrs } =
      s.arb := by
  unfold drainTest; split <;> [rfl; (split <;> rfl)]

/-! Retirement -/

@[simp] theorem retire_pending (h : Port) (i : Slot) (n : Nat) (o : SubOutcome) (s : State) : (retire h i n o s).pending = s.pending := by
  unfold retire; dsimp only; split <;> rfl
@[simp] theorem retire_hold (h : Port) (i : Slot) (n : Nat) (o : SubOutcome) (s : State) : (retire h i n o s).hold = s.hold := by
  unfold retire; dsimp only; split <;> rfl
@[simp] theorem retire_timebase (h : Port) (i : Slot) (n : Nat) (o : SubOutcome) (s : State) : (retire h i n o s).timebase = s.timebase := by
  unfold retire; dsimp only; split <;> rfl
@[simp] theorem retire_tags (h : Port) (i : Slot) (n : Nat) (o : SubOutcome) (s : State) : (retire h i n o s).tags = s.tags := by
  unfold retire; dsimp only; split <;> rfl
@[simp] theorem retire_buffer (h : Port) (i : Slot) (n : Nat) (o : SubOutcome) (s : State) : (retire h i n o s).buffer = s.buffer := by
  unfold retire; dsimp only; split <;> rfl
@[simp] theorem retire_target (h : Port) (i : Slot) (n : Nat) (o : SubOutcome) (s : State) : (retire h i n o s).target = s.target := by
  unfold retire; dsimp only; split <;> rfl
@[simp] theorem retire_log (h : Port) (i : Slot) (n : Nat) (o : SubOutcome) (s : State) : (retire h i n o s).log = s.log := by
  unfold retire; dsimp only; split <;> rfl
@[simp] theorem retire_events (h : Port) (i : Slot) (n : Nat) (o : SubOutcome) (s : State) : (retire h i n o s).events = s.events := by
  unfold retire; dsimp only; split <;> rfl
@[simp] theorem retire_policy (h : Port) (i : Slot) (n : Nat) (o : SubOutcome) (s : State) : (retire h i n o s).policy = s.policy := by
  unfold retire; dsimp only; split <;> rfl
@[simp] theorem retire_mgmt (h : Port) (i : Slot) (n : Nat) (o : SubOutcome) (s : State) : (retire h i n o s).mgmt = s.mgmt := by
  unfold retire; dsimp only; split <;> rfl

/-- A retirement rewrites its own port alone. -/
theorem retire_port (h g : Port) (i : Slot) (n : Nat) (o : SubOutcome) (s : State) :
    (retire h i n o s).port g =
      if g = h then retireAt (s.portPolicy h).errorMap i n o (s.port h) else s.port g := by
  have : (retire h i n o s).port g =
      (s.modPort h fun _ => retireAt (s.portPolicy h).errorMap i n o (s.port h)).port g := by
    unfold retire; dsimp only; split <;> rfl
  rw [this, port_modPort]

/-- A retirement changes no more of the arbiter than to end a hold in which the port stood (R88). -/
theorem retire_arb (h : Port) (i : Slot) (n : Nat) (o : SubOutcome) (s : State) :
    (retire h i n o s).arb = s.arb ∨ (retire h i n o s).arb = endPortHold h s.arb := by
  unfold retire; dsimp only; split
  · exact .inr rfl
  · exact .inl rfl

@[simp] theorem retireAll_pending (o : SubOutcome) (es : List (Port × Slot × Nat × Tag)) (s : State) :
    (retireAll o es s).pending = s.pending :=
  foldl_keeps (P := fun a : State => a.pending = s.pending) (fun _ _ ha => (retire_pending ..).trans ha) es rfl
@[simp] theorem retireAll_hold (o : SubOutcome) (es : List (Port × Slot × Nat × Tag)) (s : State) :
    (retireAll o es s).hold = s.hold :=
  foldl_keeps (P := fun a : State => a.hold = s.hold) (fun _ _ ha => (retire_hold ..).trans ha) es rfl
@[simp] theorem retireAll_timebase (o : SubOutcome) (es : List (Port × Slot × Nat × Tag)) (s : State) :
    (retireAll o es s).timebase = s.timebase :=
  foldl_keeps (P := fun a : State => a.timebase = s.timebase) (fun _ _ ha => (retire_timebase ..).trans ha) es rfl
@[simp] theorem retireAll_tags (o : SubOutcome) (es : List (Port × Slot × Nat × Tag)) (s : State) :
    (retireAll o es s).tags = s.tags :=
  foldl_keeps (P := fun a : State => a.tags = s.tags) (fun _ _ ha => (retire_tags ..).trans ha) es rfl
@[simp] theorem retireAll_buffer (o : SubOutcome) (es : List (Port × Slot × Nat × Tag)) (s : State) :
    (retireAll o es s).buffer = s.buffer :=
  foldl_keeps (P := fun a : State => a.buffer = s.buffer) (fun _ _ ha => (retire_buffer ..).trans ha) es rfl
@[simp] theorem retireAll_target (o : SubOutcome) (es : List (Port × Slot × Nat × Tag)) (s : State) :
    (retireAll o es s).target = s.target :=
  foldl_keeps (P := fun a : State => a.target = s.target) (fun _ _ ha => (retire_target ..).trans ha) es rfl
@[simp] theorem retireAll_log (o : SubOutcome) (es : List (Port × Slot × Nat × Tag)) (s : State) :
    (retireAll o es s).log = s.log :=
  foldl_keeps (P := fun a : State => a.log = s.log) (fun _ _ ha => (retire_log ..).trans ha) es rfl
@[simp] theorem retireAll_events (o : SubOutcome) (es : List (Port × Slot × Nat × Tag)) (s : State) :
    (retireAll o es s).events = s.events :=
  foldl_keeps (P := fun a : State => a.events = s.events) (fun _ _ ha => (retire_events ..).trans ha) es rfl
@[simp] theorem retireAll_policy (o : SubOutcome) (es : List (Port × Slot × Nat × Tag)) (s : State) :
    (retireAll o es s).policy = s.policy :=
  foldl_keeps (P := fun a : State => a.policy = s.policy) (fun _ _ ha => (retire_policy ..).trans ha) es rfl
@[simp] theorem retireAll_mgmt (o : SubOutcome) (es : List (Port × Slot × Nat × Tag)) (s : State) :
    (retireAll o es s).mgmt = s.mgmt :=
  foldl_keeps (P := fun a : State => a.mgmt = s.mgmt) (fun _ _ ha => (retire_mgmt ..).trans ha) es rfl

/-! Tags -/

@[simp] theorem tagRec_freeTag_same (t : Tag) (s : State) : (freeTag t s).tagRec t = none := tagRec_setTag_same s t none

theorem tagRec_freeTag_ne {t u : Tag} (s : State) (hu : u ≠ t) : (freeTag t s).tagRec u = s.tagRec u :=
  tagRec_setTag_ne s none hu

/-- A lapse sets the tag's record alone (R106). -/
theorem lapse_eq (t : Tag) (r : TagRec) (s : State) :
    lapse t r s = s.setTag t (if s.policy.global.quarantine = 0 then none
      else some { r with phase := .lapsed (after s.timebase s.policy.global.quarantine) }) := by
  unfold lapse freeTag; split <;> rfl

/-- What an expired deadline does to its tag and to the others (R13, R14, R106). -/
theorem tagRec_expireTag (t u : Tag) (s : State) :
    (expireTag t s).tagRec u =
      if u = t then
        (match s.tagRec t with
         | none => none
         | some r =>
           match r.phase with
           | .lapsed _ => some r
           | .backoff _ _ => none
           | _ => if s.policy.global.quarantine = 0 then none
                  else some { r with phase := .lapsed (after s.timebase s.policy.global.quarantine) })
      else s.tagRec u := by
  unfold expireTag
  cases ht : s.tagRec t with
  | none => simp only; split <;> simp_all
  | some r =>
    simp only
    cases hp : r.phase with
    | lapsed q => simp only; split <;> simp_all
    | backoff d e =>
      show (freeTag t s).tagRec u = _
      rw [freeTag, tagRec_setTag]
    | issued d => simp only [appendLog_tagRec, lapse_eq, tagRec_setTag]
    | filling d => simp only [appendLog_tagRec, lapse_eq, tagRec_setTag]

/-! Port resets -/

@[simp] theorem portResetTaken_port_same (h : Port) (c : EndCause) (s : State) :
    (portResetTaken h c s).port h = resetPort s.timebase c (s.port h) := by
  simp only [portResetTaken, drainTest_port, port_modPort_same]
  simp [State.port, raiseEvent]

theorem portResetTaken_port_ne {h g : Port} (c : EndCause) (s : State) (hg : g ≠ h) :
    (portResetTaken h c s).port g = s.port g := by
  simp only [portResetTaken, drainTest_port, port_modPort_ne _ _ hg]
  simp [State.port, raiseEvent]

theorem portResetTaken_tagRec (h : Port) (c : EndCause) (s : State) (t : Tag) :
    (portResetTaken h c s).tagRec t = orphanTag h (s.tagRec t) := by
  simp [portResetTaken, State.tagRec]

@[simp] theorem portResetTaken_pending (h : Port) (c : EndCause) (s : State) :
    (portResetTaken h c s).pending = s.pending := by
  simp [portResetTaken]
@[simp] theorem portResetTaken_hold (h : Port) (c : EndCause) (s : State) :
    (portResetTaken h c s).hold = s.hold := by
  simp [portResetTaken]
@[simp] theorem portResetTaken_timebase (h : Port) (c : EndCause) (s : State) :
    (portResetTaken h c s).timebase = s.timebase := by
  simp [portResetTaken]
@[simp] theorem portResetTaken_buffer (h : Port) (c : EndCause) (s : State) :
    (portResetTaken h c s).buffer = s.buffer := by
  simp [portResetTaken]
@[simp] theorem portResetTaken_policy (h : Port) (c : EndCause) (s : State) :
    (portResetTaken h c s).policy = s.policy := by
  simp [portResetTaken]
@[simp] theorem portResetTaken_mgmt (h : Port) (c : EndCause) (s : State) :
    (portResetTaken h c s).mgmt = s.mgmt := by
  simp [portResetTaken]

/-- The log after a port reset: the SESSION_END record at its tail (R137). -/
theorem portResetTaken_log (h : Port) (c : EndCause) (s : State) :
    (portResetTaken h c s).log =
      (appendLog { kind := .sessionEnd, port := some h, session := some (s.port h).session, detail := some c.code }
        s).log := by
  simp [portResetTaken]

end Sys2Proof.Machine
end

