-- ==== Sys2Proof/Laws/Retire.lean ====
section
/-! SUPPORT. What the FENCE test, the check of a part, and a retirement do, said once for each. -/

namespace Sys2Proof.Machine

/-! The FENCE test -/

/-- The FENCE test leaves every record that is no FENCE, and its port's response queue only grows at the tail (R41, R43). -/
theorem fenceTest_keeps (p : PortState) :
    (∀ (j : Slot) (r : ReqRec), p.slot j = some r → r.kind ≠ .fence → (fenceTest p).slot j = some r) ∧
      p.respQ <+: (fenceTest p).respQ := by
  refine repeated_keeps (P := fun a : PortState =>
    (∀ (j : Slot) (r : ReqRec), p.slot j = some r → r.kind ≠ .fence → a.slot j = some r) ∧ p.respQ <+: a.respQ) ?_ 16
    ⟨fun _ _ hr _ => hr, List.prefix_refl _⟩
  rintro a ⟨h1, h2⟩
  rcases fenceStep_cases a with ⟨-, he⟩ | ⟨i, q, -, hq, hk, -, he⟩
  · rw [he]; exact ⟨h1, h2⟩
  · rw [he]
    refine ⟨fun j r hr hn => ?_, h2.trans (List.prefix_append _ _)⟩
    have hj : a.slot j = some r := h1 j r hr hn
    have hne : j ≠ i := by
      rintro rfl
      rw [hq] at hj
      cases hj
      exact hn hk
    show (a.setSlot i _).slot j = some r
    rw [slot_setSlot_ne a _ hne, hj]

/-! The check of a part -/

/-- A part is malformed exactly where it matches no row of R77 or R78. -/
theorem checkPart_malformed_iff (r : TagRec) (q : Part) :
    checkPart r q = .malformed ↔ ¬ PartFits r q.status q.remaining q.data := by
  obtain ⟨st, rem, data⟩ := q
  by_cases hk : r.kind = .write
  · simp only [checkPart, hk, checkWritePart, PartFits, TcplStatus.ofCode, if_true]
    by_cases h : data ≠ [] ∨ rem ≠ r.length
    · simp only [h, if_true, true_iff]
      rintro ⟨a, b, -⟩
      exact h.elim (fun x => x a) (fun x => x b)
    · simp only [h, if_false]
      push Not at h
      simp only [h.1, h.2, true_and]
      split_ifs <;> simp_all
  · have hr : r.kind = .read := by cases h : r.kind <;> simp_all
    simp only [checkPart, hr, checkReadPart, PartFits, TcplStatus.ofCode, dataPartOk]
    by_cases h : rem = r.remaining
    · subst h
      simp only [ne_eq, not_true_eq_false, if_false, true_and]
      split_ifs <;> simp_all
    · simp [h]

/-! Retirement -/

/-- Cancellation writes CANCELLED into the entries from an index on that have no outcome, and leaves the rest (R88). -/
theorem getElem?_cancelFrom (k j : Nat) (l : List Sub) :
    (cancelFrom k l)[j]? =
      (l[j]?).map fun y => if k ≤ j ∧ y.outcome = none then { y with outcome := some .cancelled } else y := by
  induction l generalizing k j with
  | nil => cases k <;> simp [cancelFrom]
  | cons x xs ih =>
    cases k with
    | zero =>
      cases j with
      | zero => rcases x with ⟨a, b, c, _ | o, d⟩ <;> simp [cancelFrom]
      | succ j => simp [cancelFrom, ih]
    | succ k =>
      cases j with
      | zero => simp [cancelFrom]
      | succ j => simp [cancelFrom, ih]

theorem countsAsFailure_eq (m : ErrorMap) (o : SubOutcome) : countsAsFailure m o = isFailure m o := by
  cases o <;> simp [countsAsFailure, isFailure]

/-- The response status of a record entering READY is the one that R90 gives. -/
theorem readyStatus_responseStatus (m : ErrorMap) (r : ReqRec) :
    ReadyStatus m r.firstFailure r.firstPoisoned (responseStatus m r) := by
  refine ⟨?_, ?_, ?_, ?_⟩ <;> unfold responseStatus
  · intro o ho hn
    cases hf : r.firstFailure with
    | none => simp [hf] at ho
    | some f =>
      obtain ⟨a, b⟩ := f
      simp only [hf, Option.map_some, Option.mem_def, Option.some.injEq] at ho
      subst ho
      cases a <;> simp_all
  · intro h
    cases hf : r.firstFailure with
    | none => simp [hf] at h
    | some f => obtain ⟨a, b⟩ := f; simp only [hf, Option.map_some, Option.some.injEq] at h; subst h; rfl
  · intro h hz
    simp [h, Option.isSome_iff_ne_none, hz]
  · intro h hz
    simp [h, hz]

/-- What the test of entry to READY does to a slot's record, to the other slots, and to the response queue (R90, R92). -/
theorem readyTest_spec (m : ErrorMap) {i : Slot} {p : PortState} {r : ReqRec} (hr : p.slot i = some r) :
    (readyTest m i p).slot i = some
        (if r.stage = .awaiting ∧ r.allRetired = true then
          { r with stage := .ready, status := some (responseStatus m r), staging := [],
                   firstFailure := failureAtReady m r }
         else r) ∧
      (∀ j, j ≠ i → (readyTest m i p).slot j = p.slot j) ∧
      (r.stage = .awaiting → r.allRetired = true → i ∈ (readyTest m i p).respQ) := by
  unfold readyTest
  simp only [hr]
  by_cases hc : r.stage = .awaiting ∧ r.allRetired = true
  · have hb : (r.stage == .awaiting && r.allRetired) = true := by simp [hc]
    simp only [hc, and_self, if_true]
    rw [enterReady_of_some (slot_setSlot_same ..)]
    refine ⟨?_, ?_, fun _ _ => by simp⟩
    · show ((p.setSlot i _).setSlot i _).slot i = _
      rw [slot_setSlot_same]
    · intro j hj
      show ((p.setSlot i _).setSlot i _).slot j = _
      rw [slot_setSlot_ne _ _ hj, slot_setSlot_ne _ _ hj]
  · have hb : (r.stage == .awaiting && r.allRetired) = false := by
      rw [Bool.eq_false_iff]; simpa using hc
    simp only [hb, hc, if_false]
    refine ⟨by simpa using hr, fun _ _ => by simp, fun h1 h2 => absurd ⟨h1, h2⟩ hc⟩

/-- The record of a retirement, before READY is tested: the outcome in its entry and, where it counts as the record's first
failure, the failure with the cancellations (R86 to R88). -/
theorem retireAt_record (m : ErrorMap) {i : Slot} {n : Nat} (o : SubOutcome) {p : PortState} {q : ReqRec} {c : Cut}
    {x : Sub} (hq : p.slot i = some q) (hs : q.stage = .awaiting ∨ q.stage = .issuing) (hc : q.cut = some c)
    (hx : c.subs[n]? = some x) (hn : x.outcome = none) :
    ∃ (r : ReqRec) (d : Cut) (fails : Bool), retireAt m i n o p = fenceTest (readyTest m i (p.setSlot i (some r))) ∧
      fails = (countsAsFailure m o && q.firstFailure.isNone) ∧
      r = { q with cut := some d, firstFailure := if fails then some (o, x.offset) else q.firstFailure,
                   stage := if fails then .awaiting else q.stage } ∧
      ∀ (k : Nat) (y : Sub), c.subs[k]? = some y → d.subs[k]? = some
        (if k = n then { y with outcome := some o }
         else if fails = true ∧ q.stage = .issuing ∧ c.next ≤ k ∧ y.outcome = none
           then { y with outcome := some .cancelled } else y) := by
  have hget : ∀ (k : Nat) (y : Sub), c.subs[k]? = some y →
      (c.subs.modify n fun y => { y with outcome := some o })[k]? =
        some (if k = n then { y with outcome := some o } else y) := by
    intro k y hy
    rw [List.getElem?_modify, hy]
    by_cases hkn : k = n
    · subst hkn; simp
    · simp [hkn, Ne.symm hkn]
  have hat : retireAt m i n o p = fenceTest (readyTest m i (p.setSlot i (some (if isFailure m o then
      recordFailure o x.offset
        { q with cut := some { c with subs := c.subs.modify n fun y => { y with outcome := some o } } }
    else { q with cut := some { c with subs := c.subs.modify n fun y => { y with outcome := some o } } })))) := by
    simp [retireAt, hq, hc, hx, hn]
  rw [hat]
  by_cases hf : (countsAsFailure m o && q.firstFailure.isNone) = true
  · rw [countsAsFailure_eq, Bool.and_eq_true] at hf
    obtain ⟨hf1, hf2⟩ := hf
    have hf3 : q.firstFailure.isSome = false := by simpa using hf2
    rcases hs with hs | hs
    · refine ⟨_, { c with subs := c.subs.modify n fun y => { y with outcome := some o } }, _, rfl, rfl, ?_,
        fun k y hy => (hget k y hy).trans (by simp [hs])⟩
      simp [countsAsFailure_eq, hf1, hf2, hf3, recordFailure, hs]
    · refine ⟨_, { c with subs := cancelFrom c.next (c.subs.modify n fun y => { y with outcome := some o }),
                          next := (c.subs.modify n fun y => { y with outcome := some o }).length }, _, rfl, rfl, ?_,
        fun k y hy => ?_⟩
      · simp [countsAsFailure_eq, hf1, hf2, hf3, recordFailure, hs]
      · rw [getElem?_cancelFrom, hget k y hy]
        by_cases hkn : k = n
        · simp [hkn]
        · simp [hkn, countsAsFailure_eq, hf1, hf2, hs]
  · have hf' : (countsAsFailure m o && q.firstFailure.isNone) = false := Bool.eq_false_iff.2 hf
    refine ⟨_, { c with subs := c.subs.modify n fun y => { y with outcome := some o } }, _, rfl, rfl, ?_,
      fun k y hy => (hget k y hy).trans (by simp [hf'])⟩
    rw [hf']
    rw [countsAsFailure_eq] at hf'
    by_cases h1 : isFailure m o = true
    · have h2 : q.firstFailure.isSome = true := by
        rw [h1, Bool.true_and] at hf'
        generalize q.firstFailure = ff at hf' ⊢
        cases ff <;> simp_all
      simp [h1, recordFailure, h2]
    · simp [h1]

/-- The retirement path does what EntryRetired says, whatever the record's list (R86 to R92). -/
theorem retire_entryRetired (o : SubOutcome) (h : Port) (i : Slot) (n : Nat) (s : State) :
    EntryRetired o h i n s (retire h i n o s) := by
  intro q c x hq hk hs hc hx hn
  have hnf : q.kind ≠ .fence := by rcases hk with e | e <;> simp [e]
  simp only [retire_port, if_true]
  generalize (s.portPolicy h).errorMap = m
  generalize s.port h = p at hq ⊢
  obtain ⟨r, d, fails, hat, hfails, hr, hd⟩ := retireAt_record m o hq hs hc hx hn
  rw [hat]
  obtain ⟨h1, h2, h3⟩ := readyTest_spec m (slot_setSlot_same p i (some r))
  obtain ⟨k1, k2⟩ := fenceTest_keeps (readyTest m i (p.setSlot i (some r)))
  have hall : r.allRetired = true ↔ ∀ y ∈ d.subs, y.outcome ≠ none := by
    simp [ReqRec.allRetired, hr, Option.isSome_iff_ne_none]
  refine ⟨_, d, fails, _, hfails, rfl, k1 i _ h1 ?_, ?_, by simpa using hd n x hx, ?_, ?_, ?_, ?_⟩
  · split <;> (subst hr; exact hnf)
  · split <;> (subst hr; rfl)
  · intro k y hkn hy; simpa [hkn] using hd k y hy
  · split <;> (subst hr; rfl)
  · have hst : r.stage = .awaiting ↔ ¬ (q.stage = .issuing ∧ fails = false) := by
      subst hr; rcases hs with e | e <;> cases fails <;> simp [e]
    by_cases hi : q.stage = .issuing ∧ fails = false
    · have hna : r.stage ≠ .awaiting := by rw [Ne, hst]; simpa using hi
      simp only [hi, and_self, if_true]
      rw [if_neg (fun e => hna e.1)]
      subst hr
      simp [hi]
    · have ha : r.stage = .awaiting := hst.2 hi
      simp only [hi, if_false, ha, true_and]
      by_cases hr' : r.allRetired = true
      · simp only [hr', if_true]
        rw [if_pos (hall.1 hr')]
        refine ⟨?_, ?_, k2.subset (h3 ha hr'), ?_, _, rfl, ?_⟩
        · trivial
        · trivial
        · intro hne
          obtain ⟨f, hf⟩ := Option.ne_none_iff_exists'.1 hne
          subst hr
          simp only [failureAtReady]
          rw [hf]
        · have := readyStatus_responseStatus m r
          subst hr
          exact this
      · simp only [hr', Bool.false_eq_true, if_false]
        rw [if_neg (fun e => hr' (hall.2 e))]
        exact ⟨ha, by subst hr; rfl⟩
  · intro j r' hj hs' hf'
    refine k1 j r' ?_ hf'
    rw [h2 j hj, slot_setSlot_ne _ _ hj, hs']

end Sys2Proof.Machine
end

