-- ==== Sys2Proof/Tests/Slice0.lean ====
section
/-! SUPPORT. Tests: one step each on a small state. A test's expected result comes from the spec's text or worked example
that its comment names. A theorem named witness_ shows values that meet all the hypotheses of the obligation it names, or of
the clause of it that its comment names. -/

namespace Sys2Proof.Tests

-- One theorem at a time: the evaluations of many theorems at once would ask for a thread each.
set_option Elab.async false

open Sys2Proof.Machine

/-! ## Helpers -/

/-- The state that an outcome goes on to; the state after reset where it is a stop. -/
def nextOf (o : Host.Outcome State Fault Refusal) : State :=
  match o with
  | .next t => t
  | .fault _ => State.reset
  | .refused _ => State.reset

/-- The outcome is a next state. -/
def goesOn (o : Host.Outcome State Fault Refusal) : Bool :=
  match o with
  | .next _ => true
  | .fault _ => false
  | .refused _ => false

/-- A port with session 1 open: capacities 4 and 64, full credits, every notice enabled. -/
def openPort : PortState :=
  { PortState.reset with
    link := .active, carrier := true, capHdr := 4, capData := 64, respHdr := 4, respData := 64, reqHdr := 16,
    reqData := 16, noticeMask := 0x3F, session := 1, endCause := .none }

/-- The target lane in UP with totals 8 and 32, all held, and an effective MRS of 128. -/
def upLane : TargetLane :=
  { TargetLane.reset with
    link := .up, carrier := true, totalHdr := 8, totalData := 32, heldHdr := 8, heldData := 32, maxReq := some .m256,
    effMrs := some .m128 }

/-- Host addresses from 0x80000000, 1 MiB, at target address 0x40000000 (10.4.2). -/
def window : Window :=
  { enabled := true, base := 0x80000000, limit := 0x80100000, offset := 0x40000000, canRead := true, canWrite := true }

/-- Four open ports, the target lane UP, and a window in force. -/
def live : State :=
  { State.reset with
    ports := Vector.replicate 4 openPort, target := upLane,
    policy := { State.reset.policy with windows := Vector.replicate 16 window } }

/-- `live` with one port rewritten. -/
def liveWith (h : Port) (f : PortState → PortState) : State := live.modPort h f

/-- A record accepted and not yet issued. -/
def queued (k : ReqKind) (len : Nat) (seq : BitVec 16) (staging : List StageBlock) : ReqRec :=
  { stage := .queued, kind := k, hostId := if k = .post then none else some 5, mapped := decide (k ≠ .post), cls := 1,
    target := if k = .fence then none else some 0x0010000070, length := len, seq := seq, cut := none,
    firstFailure := none, firstPoisoned := none, blocks := [], staging := staging, status := none, rejected := false }

/-- A record in AWAITING that is one piece, issued under a tag. -/
def issued (k : ReqKind) (len : Nat) (tag : Tag) (blocks : List Block) (staging : List StageBlock) : ReqRec :=
  { queued k len 0 staging with
    stage := .awaiting, blocks := blocks,
    cut := some ⟨.m128, [{ offset := 0, length := len, tag := some tag, outcome := none, poisoned := false }], 1⟩ }

/-- A record in READY. -/
def ready (k : ReqKind) (len : Nat) (status : HostStatus) (blocks : List Block) : ReqRec :=
  { queued k len 0 [] with stage := .ready, status := some status, blocks := blocks }

/-- The record of a tag of port 0, slot 0, first piece. -/
def tagOf (k : TagKind) (len : Nat) (phase : TagPhase) : TagRec :=
  { port := 0, session := 1, slot := 0, sub := 0, kind := k, addr := 0x0010000080, length := len, remaining := len,
    retries := 0, orphaned := false, phase := phase }

/-- 9.1: 32 records, 100 to 131; an append loses 100 and raises LOG_OVERWRITE. -/
def fullLog : State :=
  { live with log := { records := (List.range 32).map fun i => ⟨BitVec.ofNat 16 (100 + i), 0, { kind := .stallAction }⟩,
                       next := 132, view := none } }

/-! ## Well-formedness, command words and packets -/

theorem test_wellFormed_hostUnusable : (Instr.hostUnusablePacket 0 [0x03, 1, 0, 0, 0, 0, 0, 0]).wellFormed = false := by
  decide +kernel

theorem test_wellFormed_targetUnusable : (Instr.targetUnusablePacket [0x33, 1, 0, 0, 0, 0, 0, 0]).wellFormed = false := by
  decide +kernel

theorem test_wellFormed_registerWrite :
    (Instr.registerWrite 1 0).wellFormed = false ∧ (Instr.registerWrite 3 0).wellFormed = false ∧
      (Instr.registerWrite 4 0).wellFormed = false ∧ (Instr.registerWrite 2 0).wellFormed = true := by decide +kernel

theorem test_wellFormed_invalidCommand :
    (Instr.invalidCommand 5).wellFormed = false ∧ (Instr.invalidCommand 9).wellFormed = true := by decide +kernel

theorem test_wellFormed_portReset :
    (Instr.portReset 4).wellFormed = false ∧ (Instr.portReset 3).wellFormed = true := by decide +kernel

theorem test_wellFormed_reshape :
    (Instr.reshape 100).wellFormed = false ∧ (Instr.reshape 512).wellFormed = true := by decide +kernel

theorem test_wellFormed_tableFetch :
    (Instr.tableFetch 1 4).wellFormed = false ∧ (Instr.tableFetch 0 0).wellFormed = false ∧
      (Instr.tableFetch 2 15).wellFormed = true := by decide +kernel

theorem test_wellFormed_tableCommit :
    (Instr.tableCommit 3 1).wellFormed = false ∧ (Instr.tableCommit 3 0).wellFormed = true := by decide +kernel

theorem test_no_word_spells_a_command : decodeTableWord 8 3 = none ∧ live.withFetchWord 8 3 = live := by decide +kernel

/-- 11.2: ATTACH bytes 1, 2 and 4-5; bits 7:6 of the mask are reserved. -/
theorem test_packet_attach :
    hostCommand 2 [0x01, 0xFF, 8, 0, 64, 1, 0, 0] = .attach 2 0x3F 8 320 := by decide +kernel

/-- 11.2: REQUEST bytes 1, 2, 4-9 and 10-11, and the data after 16 bytes. -/
theorem test_packet_request :
    hostCommand 1 [0x02, 1, 0x45, 0, 0x40, 0x01, 0, 0x80, 0, 0, 2, 0, 0, 0, 0, 0, 0xAA, 0xBB] =
      .request 1 1 5 1 0x80000140 2 [0xAA, 0xBB] := by decide +kernel

theorem test_packet_credit : hostCommand 0 [0x03, 2, 16, 1, 0, 0, 0, 0, 9] = .credit 0 2 272 := by decide +kernel

theorem test_packet_noticeAck : hostCommand 3 [0x04, 0x81, 0, 0, 0, 0, 0, 0] = .noticeAck 3 1 := by decide +kernel

/-- R192: a REQUEST of 15 bytes is shorter than its header, and 0x09 is no host-to-part code. -/
theorem test_packet_unusable :
    hostCommand 0 (0x02 :: List.replicate 14 0) = .hostUnusablePacket 0 (0x02 :: List.replicate 14 0) ∧
      hostCommand 0 (0x09 :: List.replicate 7 0) = .hostUnusablePacket 0 (0x09 :: List.replicate 7 0) := by
  decide +kernel

theorem test_packet_trainAck : targetCommand [0x31, 16, 32, 0, 0, 1, 0, 0] = .trainAck 16 32 256 := by decide +kernel

/-- R193: bit 7 of a TCPL's tag byte changes nothing. -/
theorem test_packet_tcpl :
    targetCommand [0x32, 0x85, 0, 0, 2, 0, 0, 0, 7, 8] = .tcpl 5 0 2 [7, 8] := by decide +kernel

theorem test_packet_tcredit : targetCommand [0x33, 1, 4, 0, 0, 0, 0, 0] = .tcredit 1 4 := by decide +kernel

/-- 12.3: the ATTACH_ACK carries 5, 16, 16 and LINK_LOSS. -/
theorem test_packet_attachAck :
    (HostPacket.answer (.ack 5 .linkLoss)).bytes = [0x09, 5, 16, 16, 3, 0, 0, 0] := by decide +kernel

/-- R178, R194: the command of a frame is taken after its other writes, and addresses rise by one from word to word. -/
theorem test_frame_command_last :
    frameRows [0x80, 0, 0, 1, 0, 0, 0, 6, 0, 0, 0, 9, 0, 0, 0, 0xFF, 0x80, 0, 0] =
      [.registerWrite 0 1, .registerWrite 2 9, .eventPendingWrite 0x80FF, .logClear] := by decide +kernel

/-- R178: the words are written in ascending address: from 0xFFFF on, the second word goes to 0 and is written first. -/
theorem test_frame_ascending :
    frameRows [0x80, 0xFF, 0xFF, 1, 0, 0, 0, 2, 0, 0, 0] = [.registerWrite 0 2, .registerWrite 0xFFFF 1] := by
  decide +kernel

theorem test_frame_early_end : frameRows [0x80, 0x40, 0, 1, 2, 3] = [.writeFrameDiscard] := by decide +kernel

/-- 11.5: a header whose direction bit is 0 reads: word 0x003 of `live` is 0x5000 while the lane is DOWN with a record
in the log (R174); the bytes are driven least significant first, and in the reset hold none are (R189). -/
theorem test_frame_read :
    (let s : State := { fullLog with target := TargetLane.reset }
     frameRows [0x00, 0x03, 0x00] = [] ∧ readFrame s [0x00, 0x03, 0x00] 1 = some [0, 0x50, 0, 0] ∧
      readFrame s [0x80, 0x03, 0x00] 1 = none ∧
      readFrame { s with hold := some .pin } [0x00, 0x03, 0x00] 1 = none) := by decide +kernel

/-- 11.6: PORT_RESET of port 2, RESHAPE to 256, and code 9. -/
theorem test_command_words :
    commandOfWord 0x00000201 = .portReset 2 ∧ commandOfWord 0x01000004 = .reshape 256 ∧
      commandOfWord 0x00000009 = .invalidCommand 9 := by decide +kernel

/-! ## Worked examples and single steps -/

/-- 3.2: a READ of 300 bytes at 0x0010000070 cut at 128. -/
theorem test_split_read : split 128 0x0010000070 300 = [(0, 16), (16, 128), (144, 128), (272, 28)] := by decide +kernel

/-- 3.2: a WRITE of 512 bytes at 0x0003001020 cut at 64 is nine pieces, of 32, seven times 64, and 32 bytes. -/
theorem test_split_write :
    (split 64 0x0003001020 512).map Prod.snd = [32, 64, 64, 64, 64, 64, 64, 64, 32] := by decide +kernel

/-- The tags of 1.2's example: 104 of port 0, `n` of port 1, 8 of port 2. -/
def chargedTags (n : Nat) : State :=
  { live with
    tags := Vector.ofFn fun t : Tag =>
      let r := tagOf .read 64 (.issued 1000)
      if t.val < 104 then some r else if t.val < 104 + n then some { r with port := 1 }
      else if t.val < 112 + n then some { r with port := 2 } else none
    policy := { live.policy with ports := live.policy.ports.set 0 { PortPolicy.default with ceiling := 128 } } }

/-- 1.2: with 13 tags free port 0 fails under 3(b), and port 1, with 3, passes under 3(a). -/
theorem test_tagTest_at_13_free :
    freeTags (chargedTags 3) = 13 ∧ tagTest (chargedTags 3) 0 = false ∧ tagTest (chargedTags 3) 1 = true := by
  decide +kernel

/-- 1.2: after that grant port 2, at its floor, fails under 3(b), and port 3 passes under 3(a). -/
theorem test_tagTest_at_12_free :
    freeTags (chargedTags 4) = 12 ∧ tagTest (chargedTags 4) 2 = false ∧ tagTest (chargedTags 4) 3 = true := by
  decide +kernel

/-- 5.5: the deadline tick 0x20, set at 0xFFFFFFE0 for 64 ticks, across the wrap. -/
theorem test_deadline_across_wrap :
    after 0xFFFFFFE0 64 = 0x20 ∧ reached 0xFFFFFFFF 0x20 = false ∧ reached 0 0x20 = false ∧
      reached 0x1F 0x20 = false ∧ reached 0x20 0x20 = true := by decide +kernel

/-- R97: the timebase wraps at 2^32. -/
theorem test_tick_wraps : (nextOf (exec .tickEvent { live with timebase := 0xFFFFFFFF })).timebase = 0 := by decide +kernel

/-- The windows of 2.5's example, in the places of port 1. -/
def lookup : State :=
  { live with
    policy := { live.policy with
      windows := (Vector.replicate 16 Window.default).set 4
        { enabled := true, base := 0x20000000, limit := 0x20010000, offset := 0x40000000, canRead := true,
          canWrite := false } |>.set 5
        { enabled := true, base := 0x20000000, limit := 0x20100000, offset := 0x80000000, canRead := true,
          canWrite := true } } }

theorem test_window_lookup :
    accessCheck lookup 1 .read 0x20000100 256 = .inr 0x40000100 ∧
      accessCheck lookup 1 .write 0x20000100 64 = .inl .denied ∧
      accessCheck lookup 1 .read 0x2000FFC0 128 = .inr 0x8000FFC0 ∧
      accessCheck lookup 1 .read 0x200FFF80 256 = .inl .denied := by decide +kernel

/-- 3.8: weights 2, 1 and 1; grants 1, 2 and 3, and grant 5 found by search. -/
theorem test_round_robin :
    (let a1 := advancePointer 0 2 Arbiter.reset
     let a2 := advancePointer 0 2 a1
     let a3 := advancePointer 1 1 a2
     let a5 := advancePointer 0 2 { a3 with pointer := 3 }
     [(a1.pointer, a1.burst), (a2.pointer, a2.burst), (a3.pointer, a3.burst), (a5.pointer, a5.burst)]) =
      [(0, 1), (1, 0), (2, 0), (0, 1)] := by decide +kernel

/-- The READ of 12.1 at tick 265: tags 0, 1 and 3 answered, tag 2 not. -/
def splitRead : State :=
  { (liveWith 0 fun p => p.setSlot 0 (some
      { issued .read 300 2 [0, 1, 2, 3, 4] [] with
        cut := some ⟨.m128,
          [⟨0, 16, some 0, some .ok, false⟩, ⟨16, 128, some 1, some .ok, false⟩, ⟨144, 128, some 2, none, false⟩,
            ⟨272, 28, some 3, some .ok, false⟩], 4⟩ })) with
    timebase := 265,
    tags := State.reset.tags.set 2
      (some { tagOf .read 128 (.issued 265) with sub := 2, addr := 0x0010000100 }) }

/-- 12.1: the record enters READY with TIMEOUT, offset 144; tag 2 lapses to 1,289; the TIMEOUT_LAPSE record. -/
theorem test_deadline_expiry :
    (let t := nextOf (exec .deadlineExpiry splitRead)
     (((t.port 0).slot 0).map fun r => (r.stage, r.status, r.firstFailure)) =
        some (.ready, some .timeout, some (.timeout, 144)) ∧
      (t.tagRec 2).map (·.phase) = some (.lapsed 1289) ∧ (t.port 0).fenceFault = true ∧
      t.log.records = [⟨0, 265,
        { kind := .timeoutLapse, port := some 0, tag := some 2, hostId := some 5, session := some 1, cls := some 1,
          length := some 128, address := some (.target 0x0010000100) }⟩]) := by decide +kernel

/-- The three ports of 12.2: 120, 100 and 30 blocks reserved, 6 free, and a head on port 1 or port 0. -/
def contended (free : Nat) (heads : List (Port × Nat)) (claims : List (Port × Nat)) : State :=
  let blocks (lo n : Nat) : List Block := (List.range n).map fun i => Fin.ofNat 256 (lo + i)
  let hold (bs : List Block) (p : PortState) : PortState :=
    { p.setSlot 0 (some (ready .read 64 .ok bs)) with acceptSeq := 2 }
  let s := ((live.modPort 0 (hold (blocks 0 120))).modPort 1 (hold (blocks 120 100))).modPort 2
    (hold (blocks 220 (36 - free)))
  let s1 := heads.foldl (fun acc x => acc.modPort x.1 fun p => p.setSlot 1 (some (queued .read x.2 1 []))) s
  { s1 with
    arb := { s1.arb with claims := claims },
    policy := { s1.policy with ports := Vector.replicate 4 { PortPolicy.default with blockCeiling := 128 } } }

/-- 12.2: behind port 1's claim of 8, port 0's READ of 448 bytes enters with need 7; port 2's of 256 fits the pool and
does not. -/
theorem test_claim_entry :
    (nextOf (exec .claimEntry (contended 6 [(0, 448), (2, 256)] [(1, 8)]))).arb.claims = [(1, 8), (0, 7)] := by
  decide +kernel

/-- 12.2: with 10 free, port 1 holds the oldest claim and passes; ports 2 and 0 fail against it. -/
theorem test_claim_order :
    (let s := contended 10 [(0, 448), (1, 512), (2, 256)] [(1, 8), (0, 7)]
     (blocksPass s 1 8, blocksPass s 2 4, blocksPass s 0 7) = (true, false, false)) := by decide +kernel

/-- Port 1 of 12.3, with tags 10 to 13. -/
def linkLost : State :=
  { (liveWith 1 fun p =>
      { ((p.setSlot 0 (some (issued .read 128 10 [40, 41] []))).setSlot 1 (some (issued .write 64 11 [] [0]))).setSlot 2
          (some (issued .read 64 12 [42] [])) with session := 4 }) with
    tags := (((State.reset.tags.set 10 (some { tagOf .read 128 (.filling 500) with port := 1, session := 4, remaining := 64 })).set
      11 (some { tagOf .write 64 (.issued 500) with port := 1, session := 4, slot := 1 })).set
      12 (some { tagOf .read 64 (.backoff 500 (some 104)) with port := 1, session := 4, slot := 2 })).set
      13 (some { tagOf .read 64 (.lapsed 900) with port := 1, session := 4 }) }

/-- 12.3: tags 10 and 11 are orphaned, 12 is FREE, 13 stands; the port is clear; SESSION_END and LINK_DOWN. -/
theorem test_port_reset :
    (let t := nextOf (exec (.hostCarrierLoss 1) linkLost)
     ([10, 11, 12, 13].map fun x => (t.tagRec x).map (·.orphaned)) = [some true, some true, none, some false] ∧
      held t 1 = 3 ∧ (t.port 1).reserved = 0 ∧ (t.port 1).link = .down ∧ (t.port 1).session = 4 ∧
      (t.port 1).endCause = .linkLoss ∧ pendingSet t = 0x4020 ∧
      t.log.records.map (·.entry) =
        [{ kind := .sessionEnd, port := some 1, session := some 4, detail := some 3 }]) := by decide +kernel

/-- 12.3: the ATTACH opens session 5 and its answer carries LINK_LOSS. -/
theorem test_attach :
    (let t := nextOf (exec (.attach 1 0 8 64)
        (liveWith 1 fun _ => { PortState.reset with link := .waiting, session := 4, endCause := .linkLoss }))
     (t.port 1).session = 5 ∧ (t.port 1).answer = some (.ack 5 .linkLoss) ∧ (t.port 1).respHdr = 8 ∧
      t.events.occ = 2) := by decide +kernel

/-- R126: the transmitter is free once the lane is ACTIVE, so the ATTACH_ACK is selected. That the ATTACH_NAK being sent is
closed is log 14's. -/
theorem test_attach_frees_the_transmitter :
    (let p := (nextOf (exec (.attach 0 0 8 64) (liveWith 0 fun _ =>
        { PortState.reset with link := .waiting, tx := some (.answer (.nak .range)) }))).port 0
     (p.tx, p.selected, p.lastCut)) = (none, some .answer, some (.closed, .answer (.nak .range))) := by decide +kernel

/-- 12.4: a drain with record A in ISSUING, tag 21 out and record B of port 3 waiting. -/
def drained : State :=
  { ((liveWith 0 fun p => p.setSlot 0 (some
        { issued .read 384 21 [0, 1, 2, 3, 4, 5] [] with
          stage := .issuing,
          cut := some ⟨.m128, [⟨0, 128, some 20, some .ok, false⟩, ⟨128, 128, some 21, none, false⟩,
            ⟨256, 128, none, none, false⟩], 2⟩ })).modPort 3 fun p =>
      p.setSlot 0 (some (queued .write 512 0 [0, 1, 2, 3, 4, 5, 6, 7]))) with
    timebase := 5010,
    tags := State.reset.tags.set 21 (some { tagOf .read 128 (.issued 5060) with sub := 1 }),
    arb := { live.arb with reshape := .draining .m256 5000 4096 } }

/-- 12.4: record A is READY with UNAVAILABLE and offset 128; its pieces are OK, LINK_DOWN and CANCELLED. -/
theorem test_loss_ends_record :
    (let r := (((nextOf (exec .targetCarrierLoss drained)).port 0).slot 0).getD (queued .fence 0 0 [])
     (r.stage, r.status, r.firstFailure) = (.ready, some .unavailable, some (.linkDown, 128)) ∧
      (((r.cut.getD ⟨.m64, [], 0⟩).subs).map fun x => x.outcome) = [some .ok, some .linkDown, some .cancelled]) := by
  decide +kernel

/-- 12.4: record B waits, every tag is FREE, the drain ends DONE, and TARGET_LANE_DOWN is logged. -/
theorem test_target_lane_loss :
    (let t := nextOf (exec .targetCarrierLoss drained)
     ((t.port 3).slot 0).map (·.stage) = some .queued ∧ t.tags = State.reset.tags ∧ t.arb.reshape = .idle ∧
      t.arb.outcome = .done ∧ t.arb.configuredMrs = .m256 ∧ t.target.link = .holdoff 5074 ∧
      t.log.records.map (·.entry) = [{ kind := .targetLaneDown, detail := some 1 }] ∧
      pendingSet t = 0x7000) := by decide +kernel

/-- 8.8: port 2 with FAIL holds a READ, a FENCE and a POST. -/
def failing : State :=
  { (liveWith 2 fun p =>
      { ((p.setSlot 0 (some (queued .read 64 0 []))).setSlot 1 (some (queued .fence 0 1 []))).setSlot 2
          (some (queued .post 64 2 [0])) with acceptSeq := 3 }) with
    policy := { live.policy with ports := live.policy.ports.set 2 { PortPolicy.default with behaviour := .fail } } }

/-- 8.8: C is READY with UNAVAILABLE, D with FAULT_SEEN, E is VACANT and sets the flag again; the log's order. -/
theorem test_fail_walk :
    (let t := nextOf (exec .targetCarrierLoss failing)
     ((t.port 2).respQ.map fun i => ((t.port 2).slot i).bind (·.status)) = [some .unavailable, some .faultSeen] ∧
      (t.port 2).slot 2 = none ∧ (t.port 2).fenceFault = true ∧ (t.port 2).noticePending = 0b001100 ∧
      t.log.records.map (·.entry.kind) = [.postedRejected, .targetLaneDown]) := by decide +kernel

/-- The lane in TRAINING; port 0 holds a READ and a POST in ISSUING, cut at 128, with pieces to come. -/
def stranded : State :=
  { (liveWith 0 fun p =>
      { (p.setSlot 0 (some
          { issued .read 256 20 [0, 1, 2, 3] [] with
            stage := .issuing,
            cut := some ⟨.m128, [⟨0, 128, some 20, some .ok, false⟩, ⟨128, 128, none, none, false⟩], 1⟩ })).setSlot 1
          (some
            { queued .post 256 1 [0, 1, 2, 3] with
              stage := .issuing,
              cut := some ⟨.m128, [⟨0, 128, none, none, false⟩, ⟨128, 128, none, none, false⟩], 1⟩ }) with
        acceptSeq := 2 }) with
    target := { TargetLane.reset with link := .training 9, carrier := true } }

/-- R152, step 3: a size of 64 strands both; the READ is READY with LINK_DOWN's entry at offset 128, and the POST is
dropped. -/
theorem test_stranded_at_training :
    (let t := nextOf (exec (.trainAck 1 1 64) stranded)
     (((t.port 0).slot 0).map fun r => (r.stage, r.status, r.firstFailure)) =
        some (.ready, some .unavailable, some (.linkDown, 128)) ∧
      (t.port 0).slot 1 = none ∧ (t.port 0).noticePending = 0b010100 ∧
      t.log.records.map (·.entry.kind) = [.postedRejected]) := by decide +kernel

/-- 12.5: slot 0 a WRITE under tag 30, slot 2 a FENCE, the flag set. -/
def fenced : State :=
  { (liveWith 0 fun p =>
      { (p.setSlot 0 (some (issued .write 64 30 [] [0]))).setSlot 2 (some (queued .fence 0 2 [])) with
        fenceFault := true, acceptSeq := 3 }) with
    tags := State.reset.tags.set 30 (some (tagOf .write 64 (.issued 500))) }

/-- 12.5: the retirement of tag 30 takes slot 0 to READY with OK and the FENCE to READY with FAULT_SEEN. -/
theorem test_fence :
    (let t := nextOf (exec (.tcpl 30 0 64 []) fenced)
     ((t.port 0).respQ.map fun i => ((t.port 0).slot i).bind (·.status)) = [some .ok, some .faultSeen] ∧
      (t.port 0).respQ = [0, 2] ∧ (t.port 0).fenceFault = false ∧ t.tagRec 30 = none) := by decide +kernel

/-- 12.5: a READ whose ID is mapped is READY with ID_IN_USE, unmapped, and sets the flag. -/
theorem test_id_in_use :
    (let t := nextOf (exec (.request 0 0 5 1 0x80000000 64 []) (liveWith 0 fun p =>
        p.setSlot 0 (some (issued .write 64 30 [] [0]))))
     (((t.port 0).slot 1).map fun r => (r.status, r.mapped)) = some (some .idInUse, false) ∧
      (t.port 0).respQ = [1] ∧ (t.port 0).fenceFault = true ∧ (t.port 0).idMapped 5 = true) := by decide +kernel

/-- 12.6: port 3 at tick 7,064 with its count at 64 and a stall window of 4 units. -/
def stalled (act : StallAction) : State :=
  { (liveWith 3 fun p =>
      { (p.setSlot 0 (some (ready .read 256 .ok [0, 1, 2, 3]))) with
        session := 6, respHdr := 0, respData := 0, respQ := [0], stallMode := .running, stallCount := 64,
        stallDue := true }) with
    timebase := 7064,
    policy := { live.policy with
      ports := Vector.replicate 4 { PortPolicy.default with stallWindow := 4, stallAction := act } } }

theorem test_stall_fence :
    (let t := nextOf (exec (.stallExpiry 3) (stalled .fence))
     (t.port 3).link = .fenced ∧ (t.port 3).reserved = 0 ∧ (t.port 3).endCause = .stallFence ∧
      t.log.records.map (·.entry) =
        [{ kind := .stallAction, port := some 3, session := some 6, detail := some 1 },
          { kind := .sessionEnd, port := some 3, session := some 6, detail := some 6 }] ∧
      t.events.occ = 0x0880) := by decide +kernel

/-- `stalled` under FENCE with a WRITE whose deadline the tick reaches too. -/
def stalledWithDeadline : State :=
  let s := (stalled .fence).modPort 3 fun p => p.setSlot 1 (some (issued .write 64 40 [] [0]))
  { s with tags := s.tags.set 40 (some { tagOf .write 64 (.issued 7064) with port := 3, session := 6, slot := 1 }) }

/-- R127, R140: the retired WRITE makes a GRANT pending, so the timer is PAUSED with its count kept before the stall expiry
is read, and no expiry is taken as the tick ends. -/
theorem test_reports_before_stall_expiry :
    (let t := nextOf (exec .tickEvent stalledWithDeadline)
     ((t.port 3).link, (t.port 3).stallMode, (t.port 3).stallCount, (t.port 3).retData) = (.active, .paused, 64, 1) ∧
      t.log.records.map (·.entry.kind) = [.timeoutLapse]) := by decide +kernel

/-- 7.5: the count reaches the window at a tick, which makes the expiry due. -/
theorem test_stall_due :
    (let p := stallTick 4 { openPort with stallMode := .running, stallCount := 63 }
     (p.stallCount, p.stallDue)) = (64, true) := by decide +kernel

/-- 4.10: the READ of port 2, under tags 4, 5 and 6. -/
def poisoned : State :=
  { (liveWith 0 fun p => p.setSlot 0 (some
      { issued .read 256 4 [10, 11, 12, 13] [] with
        cut := some ⟨.m128, [⟨0, 64, some 4, none, false⟩, ⟨64, 128, some 5, none, false⟩,
          ⟨192, 64, some 6, none, false⟩], 3⟩ })) with
    tags := ((State.reset.tags.set 4 (some { tagOf .read 64 (.issued 500) with addr := 0x0020000040 })).set
      5 (some { tagOf .read 128 (.issued 500) with sub := 1, addr := 0x0020000080 })).set
      6 (some { tagOf .read 64 (.issued 500) with sub := 2, addr := 0x0020000100 }) }

/-- 4.10, part 1: 64 bytes of tag 5 go to block 11, and the tag is FILLING with 64 to come. -/
theorem test_data_part :
    (let t := nextOf (exec (.tcpl 5 0 128 (List.replicate 64 0xAB)) poisoned)
     (t.tagRec 5).map (fun r => (r.remaining, r.phase)) = some (64, .filling 500) ∧
      t.buffer.read 703 = 0 ∧ t.buffer.read 704 = 0xAB ∧ t.buffer.read 767 = 0xAB ∧ t.buffer.read 768 = 0) := by
  decide +kernel

/-- 4.10, part 3: 32 bytes of tag 6 end off a multiple of 64: malformed, the first failure at offset 192. -/
theorem test_malformed_part :
    (let t := nextOf (exec (.tcpl 6 0 64 (List.replicate 32 1)) poisoned)
     (t.tagRec 6).map (·.isLapsed) = some true ∧ t.buffer = [] ∧
      ((t.port 0).slot 0).bind (·.firstFailure) = some (.malformed, 192) ∧
      t.log.records.map (·.entry.kind) = [.malformedCompletion]) := by decide +kernel

/-- 5.3: a RETRY at 1,020 sets the backoff end 1,024 and keeps the deadline 1,064. -/
theorem test_retry :
    ((nextOf (exec (.tcpl 17 4 64 []) { live with
      timebase := 1020, tags := State.reset.tags.set 17 (some (tagOf .write 64 (.issued 1064))) })).tagRec 17).map
        (fun r => (r.retries, r.phase)) = some (1, .backoff 1064 (some 1024)) := by decide +kernel

/-- Port 1 of 6.6: A and B queued, POSTED_REJECTED pending, credits (1, 1) waiting. -/
def outbound : PortState :=
  { (openPort.setSlot 0 (some (ready .read 512 .ok [0, 1, 2, 3, 4, 5, 6, 7]))).setSlot 1 (some (ready .write 64 .ok [])) with
    capHdr := 2, capData := 8, respHdr := 2, respData := 8, retHdr := 1, retData := 1, noticePending := 0b000100,
    respQ := [0, 1] }

/-- 6.6: the GRANT goes first, then the NOTICE, then RESPONSE A, after which 0 and 0 credits are held. -/
theorem test_outbound_order :
    (let p1 := endGrant (startGrant outbound)
     let p2 := endOther (startNotice p1)
     let p3 := startResponse [] p2
     (outbound.selected, p1.selected, p2.selected) = (some .grant, some .notice, some .response) ∧
      (p3.respHdr, p3.respData) = (0, 0) ∧ p3.waitingOnCredits = false) := by decide +kernel

/-- 6.6: after A has gone and its GRANT too, B lacks a header credit and waits on credits. -/
theorem test_waiting_on_credits :
    (let p := endGrant (startGrant (endResponse (startResponse [] (endOther (startNotice (endGrant (startGrant outbound)))))))
     (p.selected, p.waitingOnCredits, p.respQ, p.respHdr) = (none, true, [1], 0)) := by decide +kernel

theorem test_log_overwrite :
    (let t := appendLog { kind := .sessionEnd } fullLog
     (t.log.records.length, t.log.records.head?.map (·.seq), t.log.next, t.events.occ)) = (32, some 101, 133, 0x8000) := by
  decide +kernel

/-- 9.1, 11.7: LOG_POP moves record 100 into the view; word 0x008 holds its sequence, its kind and bit 31. -/
theorem test_log_pop :
    (let t := nextOf (exec .logPop fullLog)
     (t.log.records.length, readWord t 0x008, readWord t 0x006)) = (31, 0x800A0064, 0x0084001F) := by decide +kernel

/-- 10.4.2: floor 16 with ceiling 12 is INVALID; with ceiling 48 and FAIL the record is replaced. -/
theorem test_commit_port :
    (let s (w : Word) := { live with mgmt := { live.mgmt with
        staging := (stagePort PortPolicy.default).set 0 w |>.set 4 0x00100028 } }
     let t := nextOf (exec (.tableCommit 1 1) (s 0x00301001))
     (nextOf (exec (.tableCommit 1 1) (s 0x000C1001))).mgmt.result = .invalid ∧ t.mgmt.result = .done ∧
      ((t.portPolicy 1).floor, (t.portPolicy 1).ceiling, (t.portPolicy 1).behaviour) = (16, 48, .fail)) := by
  decide +kernel

/-- 10.4.2, 11.8: the window record staged at index 4 is window 0 of port 1. -/
theorem test_commit_window :
    (let t := nextOf (exec (.tableCommit 2 4) { live with mgmt := { live.mgmt with
        staging := #v[0x301, 0x80000000, 0, 0x80100000, 0, 0x40000000, 0, 0, 0, 0, 0, 0, 0, 0, 0, 0] } })
     t.window 1 0 = window ∧ t.mgmt.result = .done) := by decide +kernel

/-- 11.8: the default port record in its places. -/
theorem test_stage_port :
    ((stagePort PortPolicy.default).toList.take 6) =
      [0x00400801, 0x00010040, 0x00400010, 0x40000400, 0x00000028, 0x08687655] := by decide +kernel

/-- R173: bits written 1 are cleared, the others stand. -/
theorem test_event_pending_write :
    (nextOf (exec (.eventPendingWrite 0xFFFF0001) { live with events := ⟨0x0003, 0⟩ })).events.occ = 2 := by
  decide +kernel

/-! ## Witnesses: states and operands that meet the hypotheses of each obligation -/

/-- A state with work in it: a WRITE out under tag 30 and a READ answered on port 0, a GRANT being sent on port 1, a WRITE
waiting for its retry under tag 31 on port 2, which holds the data credits, a claim of port 3, and one log record. -/
def busy : State :=
  { (((liveWith 0 fun p =>
        { (p.setSlot 0 (some (issued .write 64 30 [] [0]))).setSlot 1
            (some { ready .read 64 .ok [0] with hostId := some 6 }) with
          reqHdr := 14, reqData := 15, respQ := [1], acceptSeq := 2 }).modPort 1 fun p =>
      { p with reqHdr := 15, reqData := 15, tx := some (.grant 1 1) }).modPort 2 fun p =>
      { p.setSlot 0 (some (issued .write 64 31 [] [0])) with reqHdr := 15, reqData := 15, acceptSeq := 1,
                                                             staging := [(3, 9)] }) with
    pending := [.tcpl 30 0 64 []], buffer := [(0, 1)],
    tags := (State.reset.tags.set 30 (some (tagOf .write 64 (.issued 500)))).set 31
      (some { tagOf .write 64 (.backoff 500 none) with port := 2 }),
    arb := { live.arb with retryQ := [31], dataHold := some (.tag 31), claims := [(3, 8)] },
    log := { records := [⟨0, 0, { kind := .stallAction }⟩], next := 1, view := none } }

theorem witness_next : ∃ t, step busy = .next t := ⟨_, rfl⟩

theorem witness_NoCommandStops : CreditsBalance busy := by decide +kernel

theorem witness_StepKeepsCreditsBalance : CreditsBalance busy ∧ ∃ t, step busy = .next t :=
  ⟨witness_NoCommandStops, witness_next⟩

theorem witness_StepKeepsResponsesQueued : ResponsesQueued busy ∧ HostIdsOnce busy ∧ ∃ t, step busy = .next t :=
  ⟨by decide +kernel, by decide +kernel, witness_next⟩

theorem witness_StepKeepsSessionsSound : SessionsSound busy ∧ ResponseCreditsFit busy ∧ ∃ t, step busy = .next t :=
  ⟨by decide +kernel, by decide +kernel, witness_next⟩

theorem witness_StepKeepsRetriesQueued : RetriesQueued busy ∧ ∃ t, step busy = .next t :=
  ⟨by decide +kernel, witness_next⟩

theorem witness_StepKeepsBufferSound :
    BlocksReservedOnce busy ∧ OneClaimPerPort busy ∧ ∃ t, step busy = .next t :=
  ⟨by decide +kernel, by decide +kernel, witness_next⟩

theorem witness_StepKeepsTargetSound : TargetSound busy ∧ ∃ t, step busy = .next t :=
  ⟨by decide +kernel, witness_next⟩

theorem witness_StepKeepsLogOrdered : LogOrdered busy ∧ OccurrencesAlone busy ∧ ∃ t, step busy = .next t :=
  ⟨by decide +kernel, by decide +kernel, witness_next⟩

theorem witness_StepKeepsPolicyInRange : PolicyInRange busy ∧ ∃ t, step busy = .next t :=
  ⟨by decide +kernel, witness_next⟩

theorem witness_StepKeepsMemoriesCanonical : MemoriesCanonical busy ∧ ∃ t, step busy = .next t :=
  ⟨by decide +kernel, witness_next⟩

theorem witness_BlockCountRegisters : BlocksReservedOnce busy := by decide +kernel

theorem witness_GlobalStateHasOneWriter :
    (∃ t, exec .logPop busy = .next t) ∧ Instr.logPop.wellFormed = true ∧ Instr.logPop ≠ .powerOnReset ∧
      Instr.logPop ≠ .pinReset ∧ Instr.logPop ≠ .softReset ∧ Instr.logPop ≠ .tickEvent ∧
      (∀ a b, Instr.logPop ≠ .tableCommit a b) ∧ (∀ w, Instr.logPop ≠ .eventEnableWrite w) ∧
      (∀ w, Instr.logPop ≠ .eventPendingWrite w) ∧
      ({ busy with events := ⟨1, 0⟩ } : State).events.occ.getLsbD 0 = true :=
  ⟨⟨_, rfl⟩, by decide, by decide, by decide, by decide, by decide, fun _ _ => nofun, fun _ => nofun, fun _ => nofun,
    by decide⟩

/-- Both clauses: `live`, and a hold of each cause. -/
theorem witness_ResetHoldTakesNoEvent :
    live.hold = none ∧ ({ live with hold := some .pin } : State).hold ≠ none ∧
      ({ live with hold := some .power } : State).hold ≠ none ∧ Instr.tickEvent ≠ .powerOnReset ∧
      Instr.tickEvent ≠ .pinReset ∧ Instr.tickEvent ≠ .targetCarrierDetect ∧ Instr.tickEvent ≠ .targetCarrierLoss ∧
      ∀ h : Port, Instr.tickEvent ≠ .hostCarrierDetect h ∧ Instr.tickEvent ≠ .hostCarrierLoss h := by decide

theorem witness_PartResetsClearThePart :
    live.hold ≠ some .pin ∧ live.hold ≠ some .power ∧ live.hold = none ∧
      ({ live with hold := some .power } : State).hold ≠ some .pin ∧
      ({ live with hold := some .pin } : State).hold = some .pin := by decide

/-- The one hypothesis, that the part is not held in reset. -/
theorem witness_EventWritesActByBit : live.hold = none ∧ busy.hold = none := by decide

theorem witness_LogClearEmptiesTheList : fullLog.hold = none := by decide

/-- Staging words 0 and 15, the addresses about them, an invalid word, and arguments just out of range. -/
theorem witness_RegisterWritesAndDiscards :
    live.hold = none ∧ plainAddress 0x040 = true ∧ plainAddress 0x04F = true ∧ (0x04F : BitVec 16).toNat = 0x40 + 15 ∧
      plainAddress 0x03F = true ∧ (0x03F : BitVec 16).toNat < 0x40 ∧ plainAddress 0 = true ∧
      plainAddress 0x050 = true ∧ 0x50 ≤ (0x050 : BitVec 16).toNat ∧ plainAddress 0xFFFF = true ∧
      commandInRange 0 = false ∧ commandInRange 9 = false ∧ 4 ≤ (4 : BitVec 8).toNat ∧
      (63 : BitVec 16).toNat ≠ 64 ∧ (513 : BitVec 16).toNat ≠ 512 := by decide +kernel

theorem witness_LogPopTakesTheOldest :
    fullLog.hold = none ∧ fullLog.log.records.head? = some ⟨100, 0, { kind := .stallAction }⟩ ∧ live.hold = none ∧
      live.log.records = [] := by decide +kernel

/-- 31 records and 32. -/
theorem witness_AppendGoesToTheTail :
    ({ fullLog with log := { fullLog.log with records := fullLog.log.records.drop 1 } } : State).log.records.length = 31 ∧
      fullLog.log.records.length = 32 := by decide +kernel

/-- The last index of each table, and the first beyond it. -/
theorem witness_FetchFillsStaging :
    live.hold = none ∧ TableIndex.ofArgs 1 3 = some (.port 3) ∧ TableIndex.ofArgs 2 15 = some (.window 15) ∧
      TableIndex.ofArgs 3 0 = some .global ∧ TableIndex.ofArgs 1 4 = none ∧ TableIndex.ofArgs 2 16 = none ∧
      TableIndex.ofArgs 3 1 = none ∧ TableIndex.ofArgs 0 0 = none ∧ (4 ≤ (4 : BitVec 16).toNat) ∧
      (16 ≤ (16 : BitVec 16).toNat) := by decide +kernel

theorem witness_FetchedRecordReadsBack :
    PortPolicy.default.inRange = true ∧ PortPolicy.default.errorMap.allowed ∧ GlobalPolicy.default.inRange := by
  decide +kernel

/-- `live` with staging words. -/
def staged (v : Vector Word 16) : State := { live with mgmt := { live.mgmt with staging := v } }

theorem witness_CommitReplacesTheRecord :
    (staged (stagePort PortPolicy.default)).hold = none ∧
      stagedPort (staged (stagePort PortPolicy.default)).mgmt.staging = some PortPolicy.default ∧
      floorsFit (staged (stagePort PortPolicy.default)) 0 PortPolicy.default.floor = true ∧
      floorsFit (staged (stagePort PortPolicy.default)) 3 PortPolicy.default.floor = true ∧
      PortPolicy.default.enabled = true ∧ (stagedWindow (staged (stageWindow window)).mgmt.staging).valid = true ∧
      stagedGlobal (staged (stageGlobal GlobalPolicy.default)).mgmt.staging = some GlobalPolicy.default := by
  decide +kernel

/-- The default record with its port disabled. -/
def disabling : PortPolicy := { PortPolicy.default with enabled := false }

/-- The clause for a record that disables its port: an ACTIVE lane, a FENCED one, and one that is neither. -/
theorem witness_CommitReplacesTheRecord_disabled :
    (let s := staged (stagePort disabling)
     let fence (s : State) (l : HostLink) : State := s.modPort 0 fun p => { p with link := l }
     s.hold = none ∧ stagedPort s.mgmt.staging = some disabling ∧ floorsFit s 0 disabling.floor = true ∧
      disabling.enabled = false ∧ (s.port 0).link = .active ∧ ((fence s .fenced).port 0).link = .fenced ∧
      floorsFit (fence s .fenced) 0 disabling.floor = true ∧ ((fence s .waiting).port 0).link = .waiting) := by
  decide +kernel

/-- R188, step 2: PORT_DISABLED ends the session of an ACTIVE port, and DISABLED is what an ATTACH then meets. -/
theorem test_commit_disables :
    (let t := nextOf (exec (.tableCommit 1 0) (staged (stagePort disabling)))
     ((t.port 0).link, (t.port 0).endCause, (t.port 0).session, t.mgmt.result)) =
      (.holdoff 64, .portDisabled, 1, .done) := by decide +kernel

/-- A ceiling of 0, a window whose limit is its base, a backoff of 0, and indices out of range. -/
theorem witness_RefusedCommitChangesNothing :
    live.hold = none ∧ (∀ p, stagedPort live.mgmt.staging = some p → floorsFit live 0 p.floor = false) ∧
      (stagedWindow (staged (stageWindow { window with limit := 0x80000000 })).mgmt.staging).valid = false ∧
      TableIndex.ofArgs 1 4 = none ∧ field live.mgmt.staging[0] 16 8 = 0 ∧ field live.mgmt.staging[1] 0 16 = 0 := by
  refine ⟨by decide, fun p hp => ?_, by decide +kernel, by decide, by decide +kernel, by decide +kernel⟩
  have hn : stagedPort live.mgmt.staging = none := by decide +kernel
  simp [hn] at hp

/-- A port in each lane state. -/
def inLane (l : HostLink) : State :=
  liveWith 0 fun _ => { PortState.reset with link := l, carrier := true, session := 1, endCause := .stallFence }

theorem witness_PortResetCommandByLaneState :
    live.hold = none ∧ (live.port 0).link = .active ∧ (inLane .waiting).hold = none ∧
      ((inLane .waiting).port 0).link = .waiting ∧ ((inLane .fenced).port 0).link = .fenced ∧
      ((inLane .down).port 0).link = .down ∧ ((inLane (.holdoff 9)).port 0).link = .holdoff 9 := by decide +kernel

/-- The smallest and the largest size; a drain in progress; a reshape with a tag out, and one with nothing out. -/
theorem witness_ReshapeStartsADrain :
    (64 : BitVec 16).toNat = Mrs.m64.bytes ∧ (512 : BitVec 16).toNat = Mrs.m512.bytes ∧ drained.hold = none ∧
      drained.arb.reshape = .draining .m256 5000 4096 ∧ busy.hold = none ∧ busy.arb.reshape = .idle ∧
      drainClear busy = false ∧ live.hold = none ∧ live.arb.reshape = .idle ∧ drainClear live = true := by
  decide +kernel

theorem witness_TickAdvancesTheTimebase :
    live.hold = none ∧ NothingDue live ∧ 1 ≤ 65535 ∧ 65535 ≤ 65535 ∧ (0 : Nat) < 2 ^ 31 := by decide +kernel

/-- A tag in ISSUED and one in BACKOFF whose deadline 500 is reached, and one whose deadline is not; with the default
quarantine and with none. -/
def expiring (quarantine : Nat) : State :=
  { live with
    timebase := 500,
    tags := ((State.reset.tags.set 0 (some (tagOf .read 64 (.issued 500)))).set 1
      (some (tagOf .read 64 (.backoff 500 none)))).set 2 (some (tagOf .read 64 (.issued 501))),
    arb := { live.arb with retryQ := [1] },
    policy := { live.policy with global := { live.policy.global with quarantine := quarantine } } }

theorem witness_DeadlineExpiryByTag :
    (expiring 0).hold = none ∧ deadlineDue (expiring 0) 2 = false ∧ deadlineDue (expiring 0) 0 = true ∧
      deadlineDue (expiring 0) 1 = true ∧ (tagOf .read 64 (.backoff 500 none)).isBackoff = true ∧
      (expiring 0).tagRec 1 = some (tagOf .read 64 (.backoff 500 none)) ∧
      (expiring 0).tagRec 0 = some (tagOf .read 64 (.issued 500)) ∧
      (tagOf .read 64 (.issued 500)).isBackoff = false ∧ (expiring 0).policy.global.quarantine = 0 ∧
      deadlineDue (expiring 1) 0 = true ∧ (expiring 1).policy.global.quarantine ≠ 0 := by decide +kernel

/-- The clause for a live subrequest: entry 2 of `splitRead`, the only one without an outcome. -/
theorem witness_DeadlineExpiryByTag_retired :
    (let q := ((splitRead.port 0).slot 0).getD (queued .fence 0 0 [])
     let c := q.cut.getD ⟨.m64, [], 0⟩
     splitRead.hold = none ∧ q.kind = .read ∧ q.stage = .awaiting ∧ q.firstFailure = none ∧
      c.subs[2]? = some ⟨144, 128, some 2, none, false⟩ ∧ liveFor splitRead 0 0 2 2 = true ∧
      deadlineDue splitRead 2 = true ∧ (∀ y ∈ c.subs.take 2, y.outcome ≠ none) ∧
      (∀ y ∈ c.subs.drop 3, y.outcome ≠ none) ∧ splitRead.log.records.length ≤ 32) := by decide +kernel

/-- A backoff that ends, and a quarantine that ends. -/
def ending : State :=
  { live with
    timebase := 500,
    tags := (State.reset.tags.set 3 (some (tagOf .read 64 (.backoff 501 (some 500))))).set 4
      (some (tagOf .read 64 (.lapsed 500))) }

theorem witness_BackoffAndQuarantineEnd :
    ending.hold = none ∧ backoffDue ending 3 = true ∧ backoffDue ending 4 = false ∧ quarantineDue ending 4 = true ∧
      ending.tagRec 3 = some (tagOf .read 64 (.backoff 501 (some 500))) ∧
      (tagOf .read 64 (.backoff 501 (some 500))).deadline = some 501 := by decide +kernel

/-- The limit reached exactly, not reached by one tick; a drain with a tag out, and one with nothing out. -/
theorem witness_DrainEnds :
    drained.hold = none ∧ drained.arb.reshape = .draining .m256 5000 4096 ∧ drainClear drained = false ∧
      4096 ≤ (({ drained with timebase := 9096 } : State).timebase - 5000).toNat ∧
      (({ drained with timebase := 9095 } : State).timebase - 5000).toNat < 4096 ∧
      drainClear { live with arb := drained.arb } = true := by decide +kernel

theorem witness_StallExpiryByAction :
    (stalled .note).hold = none ∧ stallExpiryDue (stalled .note) 3 = true ∧
      ((stalled .note).portPolicy 3).stallAction = .note ∧ stallExpiryDue (stalled .fence) 3 = true ∧
      ((stalled .fence).portPolicy 3).stallAction = .fence ∧ stallExpiryDue (stalled .reset) 3 = true ∧
      ((stalled .reset).portPolicy 3).stallAction = .reset := by decide +kernel

/-- Every lane state; a holdoff end reached exactly, and one not reached by one tick. -/
theorem witness_HostLaneMoves :
    live.hold = none ∧ (live.port 0).link = .active ∧ ((inLane .waiting).port 0).link = .waiting ∧
      ((inLane .down).port 0).link = .down ∧ ((inLane (.holdoff 0)).port 0).link = .holdoff 0 ∧
      reached (inLane (.holdoff 0)).timebase 0 = true ∧
      (∀ e, ((inLane (.holdoff 1)).port 0).link = .holdoff e → reached (inLane (.holdoff 1)).timebase e = false) := by
  refine ⟨by decide, by decide +kernel, by decide +kernel, by decide +kernel, by decide +kernel, by decide, fun e he => ?_⟩
  have h1 : ((inLane (.holdoff 1)).port 0).link = .holdoff 1 := by decide +kernel
  rw [h1] at he
  injection he with h2
  subst h2
  decide +kernel

/-- A port that policy disables. -/
def disabled (s : State) : State :=
  { s with policy := { s.policy with ports := Vector.replicate 4 { PortPolicy.default with enabled := false } } }

/-- Capacities at both ends of their ranges; a disabled port; capacities just out of range; a lane that is DOWN. -/
theorem witness_AttachOpensASession :
    (inLane .waiting).hold = none ∧ ((inLane .waiting).port 0).link = .waiting ∧
      ((inLane .fenced).port 0).link = .fenced ∧ ((inLane .waiting).portPolicy 0).enabled = true ∧
      (1 ≤ (1 : BitVec 8).toNat ∧ (64 : BitVec 8).toNat ≤ 64 ∧ 8 ≤ (8 : BitVec 16).toNat ∧ (1024 : BitVec 16).toNat ≤ 1024) ∧
      ((disabled (inLane .waiting)).portPolicy 0).enabled = false ∧
      ((disabled (inLane .waiting)).port 0).link = .waiting ∧
      ¬(1 ≤ (0 : BitVec 8).toNat ∧ (0 : BitVec 8).toNat ≤ 64 ∧ 8 ≤ (8 : BitVec 16).toNat ∧ (8 : BitVec 16).toNat ≤ 1024) ∧
      ¬(1 ≤ (64 : BitVec 8).toNat ∧ (64 : BitVec 8).toNat ≤ 64 ∧ 8 ≤ (7 : BitVec 16).toNat ∧ (7 : BitVec 16).toNat ≤ 1024) ∧
      ((inLane .down).port 0).link ≠ .waiting ∧ ((inLane .down).port 0).link ≠ .fenced ∧
      ((inLane .down).port 0).link ≠ .active := by decide +kernel

theorem witness_RetrainEndsAndReopens :
    live.hold = none ∧ (live.port 0).link = .active ∧ (live.portPolicy 0).enabled = true ∧
      (disabled live).hold = none ∧ ((disabled live).port 0).link = .active ∧
      ((disabled live).portPolicy 0).enabled = false ∧
      ¬(1 ≤ (65 : BitVec 8).toNat ∧ (65 : BitVec 8).toNat ≤ 64 ∧ 8 ≤ (8 : BitVec 16).toNat ∧
        (8 : BitVec 16).toNat ≤ 1024) ∧
      ¬(1 ≤ (64 : BitVec 8).toNat ∧ (64 : BitVec 8).toNat ≤ 64 ∧ 8 ≤ (1025 : BitVec 16).toNat ∧
        (1025 : BitVec 16).toNat ≤ 1024) := by decide +kernel

theorem witness_CreditIsClamped : live.hold = none ∧ (live.port 3).link = .active := by decide +kernel

/-- `outbound` with only RESPONSE B queued and no credit: B waits; while a GRANT is sent, it does not. -/
def waitingPort (tx : Option HostPacket) (mode : StallMode) (respQ : List Slot) : PortState :=
  { outbound with retHdr := 0, retData := 0, noticePending := 0, respHdr := 0, respQ := respQ, tx := tx,
                  stallMode := mode, stallCount := 5 }

/-- The clauses of Reported: the timer waits; it does not, with B queued, and with nothing queued; STOPPED; not ACTIVE. -/
theorem witness_CreditIsClamped_reports :
    WaitsOnCredits (waitingPort none .stopped [1]) ∧ ¬WaitsOnCredits (waitingPort (some (.grant 1 1)) .running [1]) ∧
      ¬NothingIsQueued (waitingPort (some (.grant 1 1)) .running [1]) ∧ ¬WaitsOnCredits (waitingPort none .paused []) ∧
      NothingIsQueued (waitingPort none .paused []) ∧ ¬WaitsOnCredits (waitingPort none .stopped []) ∧
      (waitingPort none .paused []).link = .active ∧ PortState.reset.link ≠ .active := by
  refine ⟨⟨by decide +kernel, by decide +kernel, by decide +kernel, by decide +kernel, ?_, ?_,
      .inr ⟨by decide +kernel, ?_, 1, [], rfl, fun _ _ => .inl rfl⟩⟩, ?_, ?_, ?_, ?_, ?_, by decide +kernel, by decide⟩
  · intro a b h; simp [waitingPort] at h
  · intro a h; simp [waitingPort] at h
  · rintro ⟨_, _, _, _, _, h⟩; simp [waitingPort] at h
  · intro h; exact h.2.2.2.2.1 1 1 rfl
  · rintro ⟨_, h | ⟨_, _, _, _, _, _, h⟩⟩ <;> simp [waitingPort] at h
  · rintro ⟨_, _, _, _, _, _, ⟨h, _⟩ | ⟨_, _, _, _, h, _⟩⟩
    · exact absurd h (by decide +kernel)
    · simp [waitingPort] at h
  · exact ⟨by decide +kernel, .inl rfl⟩
  · rintro ⟨_, _, _, _, _, _, ⟨h, _⟩ | ⟨_, _, _, _, h, _⟩⟩
    · exact absurd h (by decide +kernel)
    · simp [waitingPort] at h

/-- 7.5's rows: RUNNING with its count, PAUSED with its count, STOPPED with 0. -/
theorem test_reports :
    ([report (waitingPort none .stopped [1]), report (waitingPort (some (.grant 1 1)) .running [1]),
        report (waitingPort none .paused [])].map fun p => (p.stallMode, p.stallCount)) =
      [(.running, 5), (.paused, 5), (.stopped, 0)] := by decide +kernel

/-- With a notice outstanding, and with none. -/
theorem witness_NoticeAckReturnsUnlistedBits :
    (liveWith 0 fun p => { p with snapshot := some 0b101 }).hold = none ∧
      ((liveWith 0 fun p => { p with snapshot := some 0b101 }).port 0).link = .active ∧
      ((liveWith 0 fun p => { p with snapshot := some 0b101 }).port 0).snapshot = some 0b101 ∧
      (live.port 0).snapshot = none := by decide +kernel

/-- A frame of three words from 0xFFFF on writes COMMAND with its third; both directions; the tag byte at both ends; one
and three bytes of a last word; a header cut short; the last argument of each table and the first beyond it. -/
theorem witness_BytesStandForCommands :
    live.hold = none ∧ [1, 2, (3 : Word)].length ≤ 65536 ∧ 2 < [1, 2, (3 : Word)].length ∧
      (0xFFFF : BitVec 16) + BitVec.ofNat 16 2 = 0x001 ∧ (0x80 : Byte).getLsbD 7 = true ∧
      (0x7F : Byte).getLsbD 7 = false ∧ (127 : Tag).val = (0xFF : Byte).toNat % 128 ∧
      (0 : Tag).val = (0x80 : Byte).toNat % 128 ∧ 1 ≤ [(1 : Byte)].length ∧ [(1 : Byte), 2, 3].length ≤ 3 ∧
      [(0x80 : Byte), 0].length < 3 ∧
      (decide ((1 : BitVec 8) = 1 ∧ (3 : BitVec 16).toNat < 4) &&
        decide ((2 : BitVec 8) = 2 ∧ (15 : BitVec 16).toNat < 16)) = true ∧
      (decide ((1 : BitVec 8) = 1 ∧ (4 : BitVec 16).toNat < 4) ||
        decide ((2 : BitVec 8) = 2 ∧ (16 : BitVec 16).toNat < 16)) = false := by decide +kernel

/-- Each row of the outbound selection on a free transmitter. -/
theorem witness_OutboundOrderAndStarts :
    (openPort.tx = none ∧ openPort.link = .active ∧
      ({ openPort with answer := some (.nak .range) } : PortState).selected = some .answer) ∧
      (outbound.answer = none ∧ 0 < outbound.retHdr ∧ outbound.selected = some .grant) ∧
      (({ outbound with retHdr := 0, retData := 0 } : PortState).noticeDue = true ∧ 1 ≤ outbound.respHdr ∧
        ({ outbound with retHdr := 0, retData := 0 } : PortState).selected = some .notice) ∧
      (outbound.respQ.head? = some 0 ∧ outbound.slot 0 = some (ready .read 512 .ok [0, 1, 2, 3, 4, 5, 6, 7]) ∧
        ({ outbound with retHdr := 0, retData := 0, noticePending := 0 } : PortState).noticeDue = false ∧
        ({ outbound with respHdr := 0 } : PortState).respHdr = 0) ∧
      (liveWith 0 fun _ => outbound).hold = none ∧ ((liveWith 0 fun _ => outbound).port 0).selected = some .grant := by
  decide +kernel

/-- `outbound` when RESPONSE A is next, while it is sent, and while its GRANT is sent. -/
def answering : State := liveWith 0 fun _ => { outbound with retHdr := 0, retData := 0, noticePending := 0 }

theorem witness_ResponseStarts :
    answering.hold = none ∧ (answering.port 0).selected = some .response ∧ (answering.port 0).respQ.head? = some 0 ∧
      (answering.port 0).slot 0 = some (ready .read 512 .ok [0, 1, 2, 3, 4, 5, 6, 7]) := by decide +kernel

theorem witness_OutboundEnds :
    ((answering.modPort 0 fun p => { p with tx := some (.response 0 .ok 5 none none) }).port 0).tx =
        some (.response 0 .ok 5 none none) ∧
      (ready .read 512 .ok [0, 1, 2, 3, 4, 5, 6, 7]).staging = [] ∧ busy.hold = none ∧
      (busy.port 1).tx = some (.grant 1 1) ∧
      (∃ b, ((liveWith 0 fun p => { p with tx := some (.notice 1) }).port 0).tx = some (.notice b)) ∧
      (∃ a, ((liveWith 0 fun p => { p with tx := some (.answer (.nak .range)) }).port 0).tx = some (.answer a)) :=
  ⟨by decide +kernel, by decide, by decide, by decide +kernel, ⟨1, by decide +kernel⟩, ⟨.nak .range, by decide +kernel⟩⟩

/-- A READ of 512 bytes at the window's end, and a WRITE and a POST of 65 bytes, two blocks, at its base. -/
theorem witness_RequestIsAccepted :
    (live.hold = none ∧ (live.port 1).link = .active ∧ 1 ≤ (live.port 1).reqHdr ∧
      (live.port 1).vacantSlot = some 0 ∧ (live.port 1).staging.wf ∧ (live.port 1).idMapped 5 = false) ∧
    (accessCheck live 1 .read 0x800FFE00 512 = .inr 0x400FFE00 ∧ ceilBlocks 0 ≤ (live.port 1).reqData ∧
      ReqKind.ofCode 0 = some .read) ∧
    (accessCheck live 1 .write 0x80000000 65 = .inr 0x40000000 ∧
      accessCheck live 1 .post 0x80000000 65 = .inr 0x40000000 ∧
      ceilBlocks (List.replicate 65 (7 : Byte)).length ≤ (live.port 1).reqData ∧
      ((live.port 1).freeStaging.take 2) = [0, 1] ∧ ReqKind.ofCode 1 = some .write ∧
      ReqKind.ofCode 2 = some .post) := by decide +kernel

/-- `outbound`, every record READY; a port that waits on a WRITE in AWAITING and takes a second FENCE. -/
theorem witness_RequestIsAccepted_fence :
    (let s := liveWith 0 fun _ => outbound
     s.hold = none ∧ (s.port 0).link = .active ∧ 1 ≤ (s.port 0).reqHdr ∧ (s.port 0).vacantSlot = some 2 ∧
      (s.port 0).idMapped 6 = false ∧ (∀ j, ∀ q ∈ (s.port 0).slot j, q.stage = .ready)) ∧
    fenced.hold = none ∧ (fenced.port 0).link = .active ∧ 1 ≤ (fenced.port 0).reqHdr ∧
      (fenced.port 0).vacantSlot = some 1 ∧ (fenced.port 0).idMapped 6 = false ∧
      ({ fenced.port 0 with
          slots := (fenced.port 0).slots.set 1 (some { queued .fence 0 3 [] with hostId := some 6, cls := 0 }),
          reqHdr := 15, acceptSeq := 4 } : PortState).readyFence = none := by decide +kernel

/-- R36, R41, R42: a FENCE accepted behind READY records alone is READY at once; behind a WRITE it waits. -/
theorem test_fence_accepted :
    (let t := nextOf (exec (.request 0 3 6 0 0 0 []) (liveWith 0 fun _ => { outbound with fenceFault := true }))
     let u := nextOf (exec (.request 0 3 6 0 0 0 []) fenced)
     (((t.port 0).slot 2).map fun r => (r.stage, r.status), (t.port 0).respQ, (t.port 0).fenceFault) =
        (some (.ready, some .faultSeen), [0, 1, 2], false) ∧
      ((u.port 0).slot 1).map (·.stage) = some .queued ∧ (u.port 0).fenceFault = true) := by decide +kernel

/-- A mapped ID, of a READ and of a FENCE; and a READ that no window holds. -/
theorem witness_RequestIsRejected :
    fenced.hold = none ∧ (fenced.port 0).link = .active ∧ 1 ≤ (fenced.port 0).reqHdr ∧
      (fenced.port 0).vacantSlot = some 1 ∧ (fenced.port 0).idMapped 5 = true ∧
      ((fenced.port 0).freeStaging.take (ceilBlocks 0)).length = ceilBlocks 0 ∧ ReqKind.ofCode 0 = some .read ∧
      ReqKind.ofCode 3 = some .fence ∧ (0 : BitVec 16).toNat = 0 ∧ (fenced.port 0).idMapped 7 = false ∧ accessCheck fenced 0 .read 0 64 = .inl .denied ∧
      accessCheck fenced 0 .write 0x80000000 513 = .inl .badRequest := by decide +kernel

/-- FAIL while the lane is not UP; lengths 0, 512 and 513; the deciding window; no window; no right. -/
theorem witness_AccessChecksInOrder :
    ReqKind.read ≠ .fence ∧
      ((({ failing with target := TargetLane.reset } : State).portPolicy 2).behaviour = .fail ∧
        ({ failing with target := TargetLane.reset } : State).target.link ≠ .up) ∧
      live.target.link = .up ∧ (512 : Nat) < 513 ∧ (live.portPolicy 0).blockCeiling < (4097 + 63) / 64 ∧
      (512 + 63) / 64 ≤ (live.portPolicy 0).blockCeiling ∧
      ((live.window 0 0).enabled = true ∧ (live.window 0 0).base.toNat ≤ 0x80000000 ∧
        0x80000000 + 512 ≤ (live.window 0 0).limit.toNat) ∧
      (∀ w : Fin 4, ¬((live.window 0 w).enabled = true ∧ (live.window 0 w).base.toNat ≤ 0 ∧
        0 + 64 ≤ (live.window 0 w).limit.toNat)) ∧
      ((lookup.window 1 0).enabled = true ∧ (lookup.window 1 0).canWrite = false) ∧
      (∀ v : Fin 4, v < 1 → ¬((lookup.window 1 v).enabled = true ∧ (lookup.window 1 v).base.toNat ≤ 0x2000FFC0 ∧
        0x2000FFC0 + 128 ≤ (lookup.window 1 v).limit.toNat)) := by decide +kernel

/-- A lane that is not ACTIVE; no header credit; too few data credits; each malformed sort; a POST outside the windows. -/
theorem witness_RequestTakesNoSlot :
    ((inLane .waiting).hold = none ∧ ((inLane .waiting).port 0).link ≠ .active) ∧
      ((liveWith 0 fun p => { p with reqHdr := 0 }).port 0).reqHdr = 0 ∧
      ((liveWith 0 fun p => { p with reqData := 0 }).port 0).reqData < ceilBlocks 1 ∧
      (live.hold = none ∧ (live.port 0).link = .active ∧ 1 ≤ (live.port 0).reqHdr ∧
        ceilBlocks 2 ≤ (live.port 0).reqData ∧ (live.port 0).vacantSlot = some 0 ∧
        ceilBlocks 2 ≤ (live.port 0).freeStaging.length) ∧
      4 ≤ (4 : BitVec 8).toNat ∧ [1, (2 : Byte)] ≠ [] ∧ [1, (2 : Byte)].length ≠ (3 : BitVec 16).toNat ∧
      (1 : BitVec 16) ≠ 0 ∧ accessCheck live 0 .post 0 2 = .inl .denied ∧
      [1, (2 : Byte)].length = (2 : BitVec 16).toNat := by decide +kernel

/-- A FENCE whose last earlier record has left AWAITING. -/
def fenceReadyState : State := liveWith 0 fun p => { p.setSlot 2 (some (queued .fence 0 2 [])) with acceptSeq := 3 }

theorem witness_FenceReadsAndClearsTheFlag :
    fenceReadyState.hold = none ∧ (fenceReadyState.port 0).readyFence = some 2 ∧
      (fenceReadyState.port 0).slot 2 = some (queued .fence 0 2 []) := by decide +kernel

/-- The target lane in a state. -/
def targetIn (l : TargetLink) : State := { live with target := { TargetLane.reset with link := l, carrier := true } }

theorem witness_TargetLaneTrains :
    (targetIn .down).hold = none ∧ (targetIn .down).target.link = .down ∧ (targetIn .up).target.link ≠ .down ∧
      (targetIn (.training 0)).target.link = .training 0 ∧ reached (targetIn (.training 0)).timebase 0 = true ∧
      (targetIn (.holdoff 0)).target.link = .holdoff 0 ∧ reached (targetIn (.holdoff 1)).timebase 1 = false := by
  decide +kernel

/-- A header total of 0, and a size that is none of the four, fail the checks. -/
theorem witness_TrainingFails :
    (targetIn (.training 9)).hold = none ∧ (targetIn (.training 9)).target.link = .training 9 ∧
      trainAckSize (0 : BitVec 8).toNat (32 : BitVec 16).toNat (256 : BitVec 16).toNat = none ∧
      trainAckSize (16 : BitVec 8).toNat (32 : BitVec 16).toNat (96 : BitVec 16).toNat = none := by decide +kernel

/-- Totals at both ends of their ranges: 1 and 1 for 64 bytes, 64 and 256 for 512 bytes. -/
theorem witness_TrainAckBringsTheLaneUp :
    (targetIn (.training 9)).events.occ &&& 0x5000 = 0 ∧ (targetIn (.training 9)).hold = none ∧ (targetIn (.training 9)).target.link = .training 9 ∧
      (1 ≤ (1 : BitVec 8).toNat ∧ (64 : BitVec 8).toNat ≤ 64 ∧ 1 ≤ (1 : BitVec 16).toNat ∧
        (256 : BitVec 16).toNat ≤ 256) ∧
      Mrs.m64.bytes ≤ 64 * (1 : BitVec 16).toNat ∧ Mrs.m512.bytes ≤ 64 * (256 : BitVec 16).toNat ∧
      (targetIn (.training 9)).arb.reshape = .idle ∧
      (∀ (h : Port) (i : Slot) (r : ReqRec), ((targetIn (.training 9)).port h).slot i = some r → r.stage ≠ .issuing) := by
  refine ⟨by decide, by decide, by decide, by decide, by decide, by decide, by decide, fun h i r hr => ?_⟩
  have hn : ∀ (h : Port) (i : Slot), ((targetIn (.training 9)).port h).slot i = none := by decide +kernel
  rw [hn h i] at hr
  cases hr

/-- The clauses for records left in ISSUING, a READ and the only POST, and for a drain. -/
theorem witness_TrainAckBringsTheLaneUp_stranded :
    (let q := ((stranded.port 0).slot 0).getD (queued .fence 0 0 [])
     let w := ((stranded.port 0).slot 1).getD (queued .fence 0 0 [])
     let c := q.cut.getD ⟨.m64, [], 0⟩
     stranded.hold = none ∧ stranded.target.link = .training 9 ∧ stranded.events.occ &&& 0x5000 = 0 ∧
      Mrs.m64.bytes < c.mrs.bytes ∧ (stranded.port 0).link = .active ∧
      q.stage = .issuing ∧ q.kind = .read ∧ q.firstFailure = none ∧ c.subs[c.next]? = some ⟨128, 128, none, none, false⟩ ∧
      (∀ y ∈ c.subs.take c.next, y.outcome ≠ none) ∧
      w.stage = .issuing ∧ w.kind = .post ∧ (w.cut.map fun d => (d.mrs, d.next, d.subs.length)) = some (.m128, 1, 2) ∧
      (∀ (g : Port) (j : Slot), ∀ r ∈ (stranded.port g).slot j, r.kind = .post → r.stage = .issuing → g = 0 ∧ j = 1) ∧
      ({ stranded with arb := drained.arb } : State).arb.reshape = .draining .m256 5000 4096) := by decide +kernel

/-- Credits that just fit, credits that do not, and a TREQ being sent. -/
def treq : Treq := { kind := .write, tag := some 30, addr := 0, length := 64, data := List.replicate 64 0 }

theorem witness_TcreditAndTreqEnd :
    live.hold = none ∧ live.target.link = .up ∧
      live.target.heldHdr + (0 : BitVec 8).toNat ≤ live.target.totalHdr ∧
      live.target.heldData + (0 : BitVec 16).toNat ≤ live.target.totalData ∧
      live.target.totalHdr < live.target.heldHdr + (1 : BitVec 8).toNat ∧
      ({ live with target := { upLane with tx := .treq treq } } : State).target.tx = .treq treq := by decide +kernel

/-- R148, R157: a SOFT_RESET cuts short the TREQ being sent and sends the first TRAIN. -/
theorem test_soft_reset_cuts_the_treq :
    (let l := (nextOf (exec .softReset { live with target := { upLane with tx := .treq treq } })).target
     (l.link, l.tx, l.lastCut)) = (.training 64, .train, some (.treq treq)) := by decide +kernel

theorem witness_TargetLaneLossReleasesAll : busy.hold = none ∧ busy.target.link = .up := by decide

/-- The clauses of PortsAfterLoss: a live subrequest of a record in ISSUING; a QUEUED WRITE under HOLD; a QUEUED READ and a
QUEUED POST under FAIL. -/
theorem witness_TargetLaneLossReleasesAll_ports :
    (let q := ((drained.port 0).slot 0).getD (queued .fence 0 0 [])
     let c := q.cut.getD ⟨.m64, [], 0⟩
     drained.hold = none ∧ drained.target.link = .up ∧ q.kind = .read ∧ q.stage = .issuing ∧ 1 < c.next ∧
      c.subs[1]? = some ⟨128, 128, some 21, none, false⟩ ∧ liveFor drained 0 0 1 21 = true ∧
      (drained.port 0).link = .active ∧ (drained.portPolicy 3).behaviour = .hold ∧
      (drained.port 3).slot 0 = some (queued .write 512 0 [0, 1, 2, 3, 4, 5, 6, 7])) ∧
    failing.hold = none ∧ failing.target.link = .up ∧ (failing.portPolicy 2).behaviour = .fail ∧
      (failing.port 2).slot 0 = some (queued .read 64 0 []) ∧ (failing.port 2).slot 2 = some (queued .post 64 2 [0]) ∧
      (queued .read 64 0 []).cut = none ∧ (failing.port 2).link = .active := by decide +kernel

/-- A FREE tag, a tag in BACKOFF, and a LAPSED one. -/
theorem witness_StrayCompletionsAreLogged :
    ending.hold = none ∧ ending.target.link = .up ∧ ending.arb.reshape = .idle ∧ ending.tagRec 5 = none ∧
      ending.tagRec 3 = some (tagOf .read 64 (.backoff 501 (some 500))) ∧
      (tagOf .read 64 (.backoff 501 (some 500))).isBackoff = true ∧
      ending.tagRec 4 = some (tagOf .read 64 (.lapsed 500)) ∧ (tagOf .read 64 (.lapsed 500)).isLapsed = true := by
  decide +kernel

/-- PartFits as a Bool. -/
def fits (r : TagRec) (status : BitVec 8) (rem : Nat) (data : List Byte) : Bool := decide (PartFits r status rem data)

theorem fits_iff (r : TagRec) (status : BitVec 8) (rem : Nat) (data : List Byte) :
    fits r status rem data = true ↔ PartFits r status rem data := decide_eq_true_iff

/-- A tag of a session that has ended, and the tag of a READ of two blocks; parts that fit and parts that do not. -/
def orphaned : TagRec := { tagOf .read 128 (.issued 500) with orphaned := true }

def strayState : State := { live with tags := State.reset.tags.set 7 (some orphaned) }

theorem witness_StrayCompletionsAreLogged_orphan :
    strayState.hold = none ∧ strayState.target.link = .up ∧ strayState.arb.reshape = .idle ∧
      strayState.tagRec 7 = some orphaned ∧ orphaned.orphaned = true ∧ orphaned.runningDeadline = some 500 ∧
      !fits orphaned 0 64 (List.replicate 32 0) ∧ !fits orphaned 5 128 [] ∧
      fits orphaned 0 128 (List.replicate 64 0) ∧ fits orphaned 1 128 (List.replicate 128 0) ∧
      fits orphaned 4 128 [] := by decide +kernel

/-- R8, R9, R20: a part of 64 of 128 bytes leaves the orphan in FILLING, a RETRY frees it, and neither is logged; no byte
is placed. -/
theorem test_orphan_parts :
    (let t := nextOf (exec (.tcpl 7 0 128 (List.replicate 64 9)) strayState)
     let u := nextOf (exec (.tcpl 7 4 128 []) strayState)
     (t.tagRec 7).map (fun r => (r.remaining, r.phase)) = some (64, .filling 500) ∧ t.buffer = [] ∧ t.log.records = [] ∧
      u.tagRec 7 = none ∧ u.log.records = []) := by decide +kernel

/-- 4.10: part 1 of tag 5, which is not the last, as OK and as POISONED; and the whole of tag 4, which is. -/
theorem witness_DataPartIsPlaced :
    (let r : TagRec := { tagOf .read 128 (.issued 500) with sub := 1, addr := 0x0020000080 }
     let r4 : TagRec := { tagOf .read 64 (.issued 500) with addr := 0x0020000040 }
     poisoned.hold = none ∧ poisoned.target.link = .up ∧ poisoned.tagRec 5 = some r ∧ poisoned.tagRec 4 = some r4 ∧
      r.kind = .read ∧ r.orphaned = false ∧ r.runningDeadline = some 500 ∧
      (entryOf poisoned r).map (fun e => (e.1.blocks, e.2.offset)) = some ([10, 11, 12, 13], 64) ∧
      (entryOf poisoned r4).map (fun e => (e.1.blocks, e.2.offset)) = some ([10, 11, 12, 13], 0) ∧
      fits r 0 (128 : BitVec 16).toNat (List.replicate 64 0xAB) ∧
      fits r 1 (128 : BitVec 16).toNat (List.replicate 64 0xAB) ∧ 64 < r.remaining ∧
      fits r4 1 (64 : BitVec 16).toNat (List.replicate 64 0xAB) ∧ 64 = r4.remaining ∧ poisoned.buffer.wf ∧
      [(10 : Block), 11, 12, 13].Nodup ∧ 64 + (r.length - r.remaining) + 64 ≤ 64 * 4 ∧ 0 + 64 ≤ 64 * 4) := by
  decide +kernel

/-- R80, R81: the last part of tag 4, POISONED: the tag is free, the entry retires POISONED, and the first poisoned offset is
0; the record waits for its other pieces. -/
theorem test_last_part_poisoned :
    (let t := nextOf (exec (.tcpl 4 1 64 (List.replicate 64 0xAB)) poisoned)
     let q := ((t.port 0).slot 0).getD (queued .fence 0 0 [])
     t.tagRec 4 = none ∧ q.firstPoisoned = some 0 ∧ q.stage = .awaiting ∧
      ((q.cut.getD ⟨.m64, [], 0⟩).subs.map fun y => (y.outcome, y.poisoned)) =
        [(some .poisoned, true), (none, false), (none, false)]) := by decide +kernel

/-- The WRITE out under tag 30 in `busy`, each status code, a part that does not fit; the record whose entry retires; a
READ of three pieces. -/
theorem witness_WriteCompletes :
    (let r := tagOf .write 64 (.issued 500)
     let q := issued .write 64 30 [] [0]
     busy.hold = none ∧ busy.target.link = .up ∧ busy.tagRec 30 = some r ∧ r.kind = .write ∧ r.orphaned = false ∧
      r.runningDeadline = some 500 ∧ (busy.port r.port).slot r.slot = some q ∧ q.stage = .awaiting ∧ q.kind = .write ∧
      q.firstFailure = none ∧ q.cut.map (fun c => c.subs.map (·.outcome)) = some [none] ∧ r.sub = 0 ∧
      fits r 0 64 [] ∧ fits r 2 64 [] ∧ fits r 3 64 [] ∧ fits r 4 64 [] ∧ !fits r 1 64 [] ∧
      !fits r 0 63 [] ∧ !fits r 0 64 [1] ∧ r.retries < busy.policy.global.retryLimit) ∧
    (let r := { tagOf .read 64 (.issued 500) with addr := 0x0020000040 }
     let q := ((poisoned.port 0).slot 0).getD (queued .fence 0 0 [])
     poisoned.tagRec 4 = some r ∧ q.kind = .read ∧ q.stage = .awaiting ∧
      (q.cut.getD ⟨.m64, [], 0⟩).subs[0]? = some ⟨0, 64, some 4, none, false⟩ ∧ fits r 2 64 [] ∧
      fits r 4 64 [] ∧ !fits r 4 64 [1] ∧ !fits r 5 64 []) := by decide +kernel

/-- `busy` where tag 30 has been sent again as often as the limit allows. -/
def atTheLimit : State :=
  { busy with tags := busy.tags.set 30 (some { tagOf .write 64 (.issued 500) with retries := 3 }),
              policy := { busy.policy with global := { busy.policy.global with retryLimit := 3 } } }

theorem witness_WriteCompletes_limit :
    atTheLimit.hold = none ∧ atTheLimit.target.link = .up ∧
      atTheLimit.tagRec 30 = some { tagOf .write 64 (.issued 500) with retries := 3 } ∧
      atTheLimit.policy.global.retryLimit ≤ 3 ∧ fits { tagOf .write 64 (.issued 500) with retries := 3 } 4 64 [] := by
  decide +kernel

/-- R84, R103: a RETRY at the limit ends the tag and the WRITE, with a RETRY_EXHAUSTED record. -/
theorem test_retry_exhausted :
    (let t := nextOf (exec (.tcpl 30 4 64 []) atTheLimit)
     t.tagRec 30 = none ∧ (((t.port 0).slot 0).map fun r => (r.stage, r.firstFailure)) =
        some (.ready, some (.retryExhausted, 0)) ∧
      t.log.records.map (·.entry.kind) = [.stallAction, .retryExhausted]) := by decide +kernel

/-- Nine pieces, the most that 512 bytes give. -/
theorem witness_SplitCoversTheRequest :
    (512 : Nat) ≤ 512 ∧ (split Mrs.m64.bytes 0x20 512)[8]? = some (480, 32) ∧
      (split Mrs.m64.bytes 0x20 512).length = 9 := by decide +kernel

theorem witness_TagTestKeepsReservations :
    tagTest live 0 = true ∧ live.tagRec 127 = none ∧ (tagOf .read 64 (.issued 9)).port = 0 := by decide +kernel

theorem witness_TagCountRegisters : live.hold = none ∧ live.tags = State.reset.tags := by decide +kernel

/-- Port 0 with one record of a kind at its head. -/
def head (k : ReqKind) (staging : List StageBlock) (len : Nat := 64) : State :=
  liveWith 0 fun p => { p.setSlot 0 (some (queued k len 0 staging)) with acceptSeq := 1 }

/-- A READ, a WRITE and a POST at the issue head, each with its port selected and a tag free; a POST whose first piece is
not its last, and one whose first piece is. -/
theorem witness_IssueGrantSendsTheHead :
    ((head .read []).hold = none ∧ (head .read []).target.link = .up ∧ (head .read []).target.tx = .idle ∧
      eligibleRetry (evaluate (head .read [])) = none ∧
      (selectPort (evaluate (head .read []))).map (fun y => (y.1, y.2.record.kind.tagKind)) = some (0, some .read) ∧
      ((selectPort (evaluate (head .read []))).map fun y => (y.2.first, y.2.cut.next, y.2.cut.subs.length)) =
        some (true, 0, 2) ∧
      lowestFreeTag (evaluate (head .read [])) = some 0 ∧ (head .read []).arb.reshape = .idle) ∧
    (eligibleRetry (evaluate (head .write [0])) = none ∧
      (selectPort (evaluate (head .write [0]))).map (fun y => (y.1, y.2.record.kind.tagKind)) = some (0, some .write)) ∧
    eligibleRetry (evaluate (head .post [0])) = none ∧
      (selectPort (evaluate (head .post [0]))).map (fun y => (y.1, y.2.record.kind)) = some (0, .post) ∧
      ((selectPort (evaluate (head .post [0]))).map fun y => (y.2.cut.next, y.2.cut.subs.length)) = some (0, 2) ∧
      ((selectPort (evaluate (head .post [0] 16))).map fun y => (y.2.cut.next, y.2.cut.subs.length)) = some (0, 1) := by
  decide +kernel

/-- The clauses on the choice: a port's earliest record with a later one behind it; the search past a pointer port with no
head; and a retry head, in `busy`. -/
theorem witness_IssueGrantSendsTheHead_choice :
    (let s := (head .read []).modPort 0 fun p => { p.setSlot 3 (some (queued .write 64 1 [0])) with acceptSeq := 2 }
     (s.port 0).firstInOrder = some 0 ∧
      (∀ (j : Slot), ∀ q ∈ (s.port 0).slot j, j ≠ 0 →
        ((s.port 0).acceptSeq - q.seq).toNat < ((s.port 0).acceptSeq - 0).toNat) ∧
      (issueHead s 0).map (fun x => (x.slot, x.first, x.piece.length)) = some (0, true, 16) ∧
      (eligibleHead s 0).isSome = true) ∧
    (let s := { head .read [] with arb := { live.arb with pointer := 2 } }
     (selectPort s).map (·.1) = some 0 ∧ eligibleHead s 2 = none ∧ eligibleHead s 3 = none ∧
      ((0 : Port) - 2).val = 2) ∧
    busy.arb.retryQ.head? = some 31 := by decide +kernel

/-- A READ of 512 bytes behind another port's reservation of blocks 0 to 2, with its port's claim in the queue. -/
def claimed : State :=
  { ((head .read [] 512).modPort 1 fun p => p.setSlot 0 (some (ready .read 130 .ok [0, 1, 2]))) with
    arb := { live.arb with claims := [(0, 8)] } }

/-- R55, R65: blocks 3 to 10 are reserved at the first grant, the claim leaves, and the pointer passes a port of weight
1. -/
theorem test_first_grant_reserves :
    (let t := nextOf (exec .issueGrant claimed)
     ((t.port 0).slot 0).map (·.blocks) = some [3, 4, 5, 6, 7, 8, 9, 10] ∧ t.arb.claims = [] ∧
      (t.arb.pointer, t.arb.burst) = (1, 0) ∧ ((t.tagRec 0).map (·.length)) = some 16) := by decide +kernel

theorem witness_RetryGrantResendsTheHead :
    busy.hold = none ∧ busy.target.link = .up ∧ busy.target.tx = .idle ∧
      eligibleRetry (evaluate busy) =
        some (31, { tagOf .write 64 (.backoff 500 none) with port := 2 }, 500) ∧
      (entryOf busy { tagOf .write 64 (.backoff 500 none) with port := 2 }).map
        (fun e => (e.1.kind, e.1.staging, e.2.offset)) = some (.write, [0], 0) := by decide +kernel

/-- R62: the WRITE is sent again with the bytes of its staging block, 9 at address 3. -/
theorem test_retry_sends_the_same_data :
    (match (nextOf (exec .retryGrant busy)).target.tx with | .treq q => q.data.take 5 | _ => []) = [0, 0, 0, 9, 0] := by
  decide +kernel

/-- A READ above a lowered block ceiling. -/
def overTheCeiling : State :=
  { head .read [] with
    policy := { live.policy with ports := Vector.replicate 4 { PortPolicy.default with blockCeiling := 1 } } }.modPort 0
      fun p => p.setSlot 0 (some (queued .read 128 0 []))

/-- A WRITE at the pointer port's head and too few data credits. -/
def shortOfData : State := { head .write [0] with target := { upLane with heldData := 0 } }

theorem witness_EvaluationSettlesClaimsAndHold :
    (overTheCeiling.hold = none ∧ overTheCeiling.target.link = .up ∧ overTheCeiling.target.tx = .idle ∧
      overCeiling overTheCeiling 0 = some 0) ∧
      ((∀ h : Port, overCeiling shortOfData h = none) ∧ (∀ h : Port, claimDue shortOfData h = none) ∧
        shortOfData.arb.dataHold = none ∧ shortOfData.arb.retryQ = [] ∧
        portWaitsOnData shortOfData shortOfData.arb.pointer = true) := by decide +kernel

/-- The clauses for claims and for the retry head as holder: ports 1 and 0 have claims due, in round-robin order from the
pointer; and a WRITE at the head of the retry queue with a header credit and too few data credits. -/
theorem witness_EvaluationSettlesClaimsAndHold_claims :
    (let s := { contended 6 [(0, 448), (1, 512)] [] with arb := { live.arb with pointer := 1 } }
     s.hold = none ∧ s.target.link = .up ∧ s.target.tx = .idle ∧ (∀ h : Port, overCeiling s h = none) ∧
      claimDue s 1 = some 8 ∧ claimDue s 0 = some 7) ∧
    (let s := { busy with target := { upLane with heldData := 0 }, arb := { busy.arb with dataHold := none } }
     s.hold = none ∧ s.target.link = .up ∧ s.target.tx = .idle ∧ (∀ h : Port, overCeiling s h = none) ∧
      s.arb.retryQ.head? = some 31 ∧ (s.tagRec 31).map (fun r => (r.phase, r.kind)) = some (.backoff 500 none, .write) ∧
      1 ≤ s.target.heldHdr ∧ s.target.heldData < (64 + 63) / 64) := by decide +kernel

/-- R57, R63: the claims enter in the order 1, 0, and the retry head becomes the holder. -/
theorem test_claims_in_order_and_retry_holder :
    (nextOf (exec .claimEntry
        { contended 6 [(0, 448), (1, 512)] [] with arb := { live.arb with pointer := 1 } })).arb.claims = [(1, 8), (0, 7)] ∧
      (nextOf (exec .dataCreditHold { busy with target := { upLane with heldData := 0 },
                                                arb := { busy.arb with dataHold := none } })).arb.dataHold =
        some (.tag 31) := by decide +kernel

end Sys2Proof.Tests
end

/-! Proofs about the tag table (01): the retry queue and the expiries, the retirements that one event brings, the loss of
the target lane, the completions that a tag takes, and the grants. -/

section
/-! SUPPORT. The Tag Table's expiries, each said once: what the fold over the due tags leaves. -/

namespace Sys2Proof.Machine

/-! Tags that go FREE or lapse -/

@[simp] theorem freeTag_pending (t : Tag) (s : State) : (freeTag t s).pending = s.pending := rfl
@[simp] theorem freeTag_hold (t : Tag) (s : State) : (freeTag t s).hold = s.hold := rfl
@[simp] theorem freeTag_timebase (t : Tag) (s : State) : (freeTag t s).timebase = s.timebase := rfl
@[simp] theorem freeTag_ports (t : Tag) (s : State) : (freeTag t s).ports = s.ports := rfl
@[simp] theorem freeTag_port (t : Tag) (s : State) (h : Port) : (freeTag t s).port h = s.port h := rfl
@[simp] theorem freeTag_buffer (t : Tag) (s : State) : (freeTag t s).buffer = s.buffer := rfl
@[simp] theorem freeTag_arb (t : Tag) (s : State) : (freeTag t s).arb = s.arb := rfl
@[simp] theorem freeTag_target (t : Tag) (s : State) : (freeTag t s).target = s.target := rfl
@[simp] theorem freeTag_log (t : Tag) (s : State) : (freeTag t s).log = s.log := rfl
@[simp] theorem freeTag_events (t : Tag) (s : State) : (freeTag t s).events = s.events := rfl
@[simp] theorem freeTag_policy (t : Tag) (s : State) : (freeTag t s).policy = s.policy := rfl
@[simp] theorem freeTag_mgmt (t : Tag) (s : State) : (freeTag t s).mgmt = s.mgmt := rfl
@[simp] theorem freeTag_portPolicy (t : Tag) (s : State) (h : Port) : (freeTag t s).portPolicy h = s.portPolicy h := rfl

theorem tagRec_freeTag (t u : Tag) (s : State) : (freeTag t s).tagRec u = if u = t then none else s.tagRec u :=
  tagRec_setTag s t u none

@[simp] theorem lapse_ports (t : Tag) (r : TagRec) (s : State) : (lapse t r s).ports = s.ports := by simp [lapse_eq]
@[simp] theorem lapse_port (t : Tag) (r : TagRec) (s : State) (h : Port) : (lapse t r s).port h = s.port h := by
  simp [lapse_eq]
@[simp] theorem lapse_arb (t : Tag) (r : TagRec) (s : State) : (lapse t r s).arb = s.arb := by simp [lapse_eq]
@[simp] theorem lapse_log (t : Tag) (r : TagRec) (s : State) : (lapse t r s).log = s.log := by simp [lapse_eq]
@[simp] theorem lapse_timebase (t : Tag) (r : TagRec) (s : State) : (lapse t r s).timebase = s.timebase := by
  simp [lapse_eq]
@[simp] theorem lapse_policy (t : Tag) (r : TagRec) (s : State) : (lapse t r s).policy = s.policy := by simp [lapse_eq]
@[simp] theorem lapse_buffer (t : Tag) (r : TagRec) (s : State) : (lapse t r s).buffer = s.buffer := by simp [lapse_eq]
@[simp] theorem lapse_portPolicy (t : Tag) (r : TagRec) (s : State) (h : Port) :
    (lapse t r s).portPolicy h = s.portPolicy h := by
  simp [lapse_eq]

/-! BACKOFF_END (R15) -/

/-- A tag record after its backoff has ended: the deadline alone is left of its timers (R15). -/
def TagRec.backoffEnded (r : TagRec) : TagRec :=
  match r.phase with
  | .backoff d _ => { r with phase := .backoff d none }
  | _ => r

theorem TagRec.backoffEnded_of_phase {r : TagRec} {d : Tick} {e : Option Tick} (hp : r.phase = .backoff d e) :
    r.backoffEnded = { r with phase := .backoff d none } := by
  simp [TagRec.backoffEnded, hp]

theorem TagRec.isBackoff_iff {r : TagRec} : r.isBackoff = true ↔ ∃ d e, r.phase = .backoff d e := by
  unfold TagRec.isBackoff
  cases r.phase <;> simp

theorem TagRec.isLapsed_iff {r : TagRec} : r.isLapsed = true ↔ ∃ q, r.phase = .lapsed q := by
  unfold TagRec.isLapsed
  cases r.phase <;> simp

/-- A tag whose backoff is due is in BACKOFF with the end tick present, and its deadline is not reached. -/
theorem backoffDue_iff {s : State} {t : Tag} :
    backoffDue s t = true ↔ ∃ r d e, s.tagRec t = some r ∧ r.phase = .backoff d (some e) ∧
      reached s.timebase e = true ∧ reached s.timebase d = false := by
  unfold backoffDue
  cases s.tagRec t with
  | none => simp
  | some r => cases hp : r.phase with
    | backoff d e => cases e <;> simp [hp]
    | _ => simp [hp]

theorem quarantineDue_iff {s : State} {t : Tag} :
    quarantineDue s t = true ↔ ∃ r q, s.tagRec t = some r ∧ r.phase = .lapsed q ∧ reached s.timebase q = true := by
  unfold quarantineDue
  cases s.tagRec t with
  | none => simp
  | some r => cases hp : r.phase <;> simp [hp]

theorem endBackoff_of_backoff {s : State} {t : Tag} {r : TagRec} (hr : s.tagRec t = some r) (hb : r.isBackoff = true) :
    endBackoff t s = { s.setTag t (some r.backoffEnded) with arb := { s.arb with retryQ := s.arb.retryQ ++ [t] } } := by
  obtain ⟨d, e, hp⟩ := TagRec.isBackoff_iff.1 hb
  simp [endBackoff, hr, hp, TagRec.backoffEnded]

/-- The backoffs of a list of tags in BACKOFF end: the tags join the queue in the list's order, and nothing else changes
but that their end ticks are gone. -/
theorem foldl_endBackoff (l : List Tag) (s : State) (hl : l.Nodup)
    (hb : ∀ t ∈ l, ∃ r, s.tagRec t = some r ∧ r.isBackoff = true) :
    (l.foldl (fun acc t => endBackoff t acc) s).arb = { s.arb with retryQ := s.arb.retryQ ++ l } ∧
      (∀ x, (l.foldl (fun acc t => endBackoff t acc) s).tagRec x =
        if x ∈ l then (s.tagRec x).map TagRec.backoffEnded else s.tagRec x) ∧
      { l.foldl (fun acc t => endBackoff t acc) s with arb := s.arb, tags := s.tags } = s := by
  induction l generalizing s with
  | nil => simp
  | cons t l ih =>
    obtain ⟨ht, hl⟩ := List.nodup_cons.1 hl
    obtain ⟨r, hr, hrb⟩ := hb t (by simp)
    have he := endBackoff_of_backoff hr hrb
    have hrec : ∀ x, (endBackoff t s).tagRec x = if x = t then some r.backoffEnded else s.tagRec x := by
      intro x; rw [he]; exact tagRec_setTag s t x _
    obtain ⟨harb, htag, hframe⟩ := ih (endBackoff t s) hl fun u hu => by
      rw [hrec, if_neg (by rintro rfl; exact ht hu)]
      exact hb u (List.mem_cons_of_mem _ hu)
    simp only [List.foldl_cons]
    refine ⟨by rw [harb, he]; simp, fun x => ?_, ?_⟩
    · rw [htag, hrec]
      by_cases hx : x = t
      · subst hx; simp [ht, hr]
      · simp [hx]
    · exact (congrArg (fun a : State => { a with arb := s.arb, tags := s.tags }) hframe).trans (by rw [he])

/-- What BACKOFF_END's event leaves (R15, R99, R103). -/
theorem takeBackoffEnds_spec (s : State) :
    (takeBackoffEnds s).arb = { s.arb with retryQ := s.arb.retryQ ++ allTags.filter (backoffDue s) } ∧
      (∀ x, (takeBackoffEnds s).tagRec x =
        if backoffDue s x = true then (s.tagRec x).map TagRec.backoffEnded else s.tagRec x) ∧
      { takeBackoffEnds s with arb := s.arb, tags := s.tags } = s := by
  have h := foldl_endBackoff (allTags.filter (backoffDue s)) s ((List.nodup_finRange 128).filter _) fun t ht => by
    obtain ⟨r, d, e, hr, hp, -, -⟩ := backoffDue_iff.1 (List.mem_filter.1 ht).2
    exact ⟨r, hr, TagRec.isBackoff_iff.2 ⟨d, some e, hp⟩⟩
  simpa only [takeBackoffEnds, List.mem_filter, List.mem_finRange, true_and] using h

/-! QUARANTINE_END (R16) -/

theorem foldl_freeTag (l : List Tag) (s : State) :
    (∀ x, (l.foldl (fun acc t => freeTag t acc) s).tagRec x = if x ∈ l then none else s.tagRec x) ∧
      { l.foldl (fun acc t => freeTag t acc) s with tags := s.tags } = s := by
  induction l generalizing s with
  | nil => simp
  | cons t l ih =>
    obtain ⟨htag, hframe⟩ := ih (freeTag t s)
    refine ⟨fun x => ?_, ?_⟩
    · rw [List.foldl_cons, htag, tagRec_freeTag]
      by_cases hx : x = t <;> simp [hx]
    · exact congrArg (fun a : State => { a with tags := s.tags }) hframe

/-- What QUARANTINE_END's event leaves (R16, R107). -/
theorem takeQuarantineEnds_spec (s : State) :
    (∀ x, (takeQuarantineEnds s).tagRec x = if quarantineDue s x = true then none else s.tagRec x) ∧
      { takeQuarantineEnds s with tags := s.tags } = s := by
  simpa only [takeQuarantineEnds, List.mem_filter, List.mem_finRange, true_and] using
    foldl_freeTag (allTags.filter (quarantineDue s)) s

theorem takeQuarantineEnds_arb (s : State) : (takeQuarantineEnds s).arb = s.arb :=
  (congrArg State.arb (takeQuarantineEnds_spec s).2 :)

end Sys2Proof.Machine

namespace Sys2Proof.Proofs

open Sys2Proof.Machine

/-- Settles O29: both events are folds over the due tags, whose results are said by `takeBackoffEnds_spec` and
`takeQuarantineEnds_spec`. -/
theorem backoffAndQuarantineEnd : Obligations.BackoffAndQuarantineEnd := by
  intro s hs
  obtain ⟨harb, htag, hframe⟩ := takeBackoffEnds_spec s
  obtain ⟨hqtag, hqframe⟩ := takeQuarantineEnds_spec s
  refine ⟨⟨_, takes_next hs _, harb, fun x hx => by rw [htag, hx]; rfl, fun x r d hx hr hd => ?_, hframe⟩,
    _, takes_next hs _, hqtag, hqframe⟩
  obtain ⟨r', d', e, hr', hp, -, -⟩ := backoffDue_iff.1 hx
  obtain rfl : r = r' := Option.some.inj (hr.symm.trans hr')
  obtain rfl : d' = d := by simpa [TagRec.deadline, hp] using hd
  rw [htag, if_pos hx, hr, Option.map_some, TagRec.backoffEnded_of_phase hp]

end Sys2Proof.Proofs
end

section
/-! SUPPORT. The retry queue (R61, R63): what of the state it rests on, and that every operation keeps it. -/

namespace Sys2Proof.Machine

@[simp] theorem drainTest_pointer (s : State) : (drainTest s).arb.pointer = s.arb.pointer :=
  (congrArg Arbiter.pointer (drainTest_arb s) :)
@[simp] theorem drainTest_burst (s : State) : (drainTest s).arb.burst = s.arb.burst :=
  (congrArg Arbiter.burst (drainTest_arb s) :)
@[simp] theorem drainTest_retryQ (s : State) : (drainTest s).arb.retryQ = s.arb.retryQ :=
  (congrArg Arbiter.retryQ (drainTest_arb s) :)
@[simp] theorem drainTest_dataHold (s : State) : (drainTest s).arb.dataHold = s.arb.dataHold :=
  (congrArg Arbiter.dataHold (drainTest_arb s) :)
@[simp] theorem drainTest_claims (s : State) : (drainTest s).arb.claims = s.arb.claims :=
  (congrArg Arbiter.claims (drainTest_arb s) :)

/-! What the retry queue rests on -/

/-- A tag record waits for a retry: in BACKOFF, its backoff over (R15). -/
def waitsAsRetry : Option TagRec → Bool
  | some r => (match r.phase with | .backoff _ none => true | _ => false)
  | none => false

theorem waitsForRetry_eq (s : State) (t : Tag) : s.waitsForRetry t = waitsAsRetry (s.tagRec t) := by
  unfold State.waitsForRetry waitsAsRetry
  cases s.tagRec t <;> rfl

theorem waitsAsRetry_of_issued {r : TagRec} {d : Tick} (h : r.phase = .issued d) : waitsAsRetry (some r) = false := by
  simp [waitsAsRetry, h]

theorem waitsAsRetry_of_filling {r : TagRec} {d : Tick} (h : r.phase = .filling d) : waitsAsRetry (some r) = false := by
  simp [waitsAsRetry, h]

theorem waitsAsRetry_of_lapsed {r : TagRec} {q : Tick} (h : r.phase = .lapsed q) : waitsAsRetry (some r) = false := by
  simp [waitsAsRetry, h]

/-- From `s` to `t` the same tags wait for a retry in the same queue, and no tag has become the holder of a hold. -/
structure SameRetries (s t : State) : Prop where
  queue : t.arb.retryQ = s.arb.retryQ
  holder : ∀ x : Tag, t.arb.dataHold = some (.tag x) → s.arb.dataHold = some (.tag x)
  waits : ∀ x : Tag, waitsAsRetry (t.tagRec x) = waitsAsRetry (s.tagRec x)

theorem SameRetries.refl (s : State) : SameRetries s s := ⟨rfl, fun _ h => h, fun _ => rfl⟩

theorem SameRetries.trans {s t u : State} (h1 : SameRetries s t) (h2 : SameRetries t u) : SameRetries s u :=
  ⟨h2.queue.trans h1.queue, fun x hx => h1.holder x (h2.holder x hx), fun x => (h2.waits x).trans (h1.waits x)⟩

theorem SameRetries.keeps {s t : State} (h : SameRetries s t) (hs : RetriesQueued s) : RetriesQueued t := by
  obtain ⟨hn, hw, hh⟩ := hs
  refine ⟨h.queue ▸ hn, fun x => ?_, fun x hx => h.queue ▸ hh x (h.holder x hx)⟩
  rw [h.queue, hw, waitsForRetry_eq, waitsForRetry_eq, h.waits]

/-- An operation that leaves the tags and the arbiter. -/
theorem SameRetries.of_eq {s t : State} (htags : t.tags = s.tags) (harb : t.arb = s.arb) : SameRetries s t :=
  ⟨by rw [harb], fun _ h => harb ▸ h, fun x => by simp [State.tagRec, htags]⟩

/-- An operation that leaves the tags, and of the arbiter the queue and the hold. -/
theorem SameRetries.of_arb {s t : State} (htags : t.tags = s.tags) (hq : t.arb.retryQ = s.arb.retryQ)
    (hh : t.arb.dataHold = s.arb.dataHold) : SameRetries s t :=
  ⟨hq, fun _ h => hh ▸ h, fun x => by simp [State.tagRec, htags]⟩

/-- A tag written with a record that waits no more and no less than the one it replaces. -/
theorem sameRetries_setTag {s : State} {t : Tag} {r : Option TagRec} (h : waitsAsRetry r = waitsAsRetry (s.tagRec t)) :
    SameRetries s (s.setTag t r) :=
  ⟨rfl, fun _ h => h, fun x => by rw [tagRec_setTag]; split <;> simp_all⟩

theorem sameRetries_foldl {α : Type} {f : State → α → State} (hf : ∀ s a, SameRetries s (f s a)) (l : List α)
    (s : State) : SameRetries s (l.foldl f s) :=
  foldl_keeps (P := SameRetries s) (fun a b h => h.trans (hf a b)) l (.refl s)

/-! Operations that leave the retries -/

theorem sameRetries_modPort (s : State) (h : Port) (f : PortState → PortState) : SameRetries s (s.modPort h f) :=
  .of_eq rfl rfl

theorem sameRetries_modPorts (s : State) (f : PortState → PortState) : SameRetries s (s.modPorts f) := .of_eq rfl rfl

theorem sameRetries_modTarget (s : State) (f : TargetLane → TargetLane) : SameRetries s (s.modTarget f) := .of_eq rfl rfl

theorem sameRetries_setResult (c : BitVec 8) (r : CmdResult) (s : State) : SameRetries s (setResult c r s) :=
  .of_eq rfl rfl

theorem sameRetries_reportAll (s : State) : SameRetries s (reportAll s) := .of_eq rfl rfl

theorem sameRetries_appendLog (e : LogEntry) (s : State) : SameRetries s (appendLog e s) := .of_eq (by simp) (by simp)

theorem sameRetries_drainTest (s : State) : SameRetries s (drainTest s) := .of_arb (by simp) (by simp) (by simp)

theorem endPortHold_retryQ (h : Port) (a : Arbiter) : (endPortHold h a).retryQ = a.retryQ := by
  unfold endPortHold; split <;> rfl

/-- A port's hold that ends gives the hold to no tag. -/
theorem endPortHold_holder {h : Port} {a : Arbiter} {x : Holder} (hx : (endPortHold h a).dataHold = some x) :
    a.dataHold = some x := by
  unfold endPortHold at hx
  split at hx
  · cases hx
  · exact hx

theorem sameRetries_retire (h : Port) (i : Slot) (n : Nat) (o : SubOutcome) (s : State) :
    SameRetries s (retire h i n o s) := by
  rcases retire_arb h i n o s with e | e
  · exact .of_eq (by simp) e
  · exact ⟨by rw [e, endPortHold_retryQ], fun x hx => endPortHold_holder (e ▸ hx), fun x => by simp [State.tagRec]⟩

theorem sameRetries_retireAll (o : SubOutcome) (es : List (Port × Slot × Nat × Tag)) (s : State) :
    SameRetries s (retireAll o es s) :=
  sameRetries_foldl (fun a (e : Port × Slot × Nat × Tag) => sameRetries_retire e.1 e.2.1 e.2.2.1 o a) es s

theorem sameRetries_freeTag {s : State} {t : Tag} (h : waitsAsRetry (s.tagRec t) = false) :
    SameRetries s (freeTag t s) :=
  sameRetries_setTag h.symm

theorem sameRetries_lapse {s : State} {t : Tag} (r : TagRec) (h : waitsAsRetry (s.tagRec t) = false) :
    SameRetries s (lapse t r s) := by
  rw [lapse_eq]
  refine sameRetries_setTag (h.symm ▸ ?_)
  split
  · rfl
  · exact waitsAsRetry_of_lapsed rfl

theorem sameRetries_takeDrainLimit (s : State) : SameRetries s (takeDrainLimit s) := by
  unfold takeDrainLimit
  split
  · exact .refl s
  · split
    · exact .of_arb (by simp) (by simp) (by simp)
    · exact .refl s

theorem sameRetries_ceilingStep (h : Port) (s : State) : SameRetries s (ceilingStep h s) := by
  unfold ceilingStep
  split
  · exact .refl s
  · exact .of_arb rfl rfl rfl

theorem sameRetries_ceilingRetires (s : State) : SameRetries s (ceilingRetires s) :=
  sameRetries_foldl (f := fun a h => repeated (ceilingStep h) 16 a)
    (fun a h => repeated_keeps (P := SameRetries a) (fun b hb => hb.trans (sameRetries_ceilingStep h b)) 16 (.refl a)) _ s

theorem sameRetries_enterClaims (s : State) : SameRetries s (enterClaims s) := .of_arb rfl rfl rfl

theorem sameRetries_dropPost (h : Port) (i : Slot) (s : State) : SameRetries s (dropPost h i s) := by
  unfold dropPost
  split
  · exact .refl s
  · exact (sameRetries_appendLog _ s).trans (sameRetries_modPort ..)

theorem sameRetries_failRecord (h : Port) (i : Slot) (s : State) : SameRetries s (failRecord h i s) := by
  unfold failRecord
  split
  · exact .refl s
  · split
    · split
      · exact .of_arb rfl rfl rfl
      · exact sameRetries_modPort ..
      · exact sameRetries_dropPost h i s
      · exact .refl s
    · exact .refl s

theorem sameRetries_failPorts (s : State) : SameRetries s (failPorts s) := by
  refine sameRetries_foldl (fun a h => ?_) _ s
  split
  · exact sameRetries_foldl (fun b i => (sameRetries_failRecord h i b).trans (sameRetries_modPort ..)) _ a
  · exact .refl a

theorem sameRetries_endAllStranded (m : Mrs) (s : State) : SameRetries s (endAllStranded m s) := by
  refine sameRetries_foldl (fun a h => sameRetries_foldl (fun b i => ?_) _ a) _ s
  unfold endStranded
  split
  · exact .refl b
  · split
    · split
      · exact (sameRetries_dropPost h i b).trans (sameRetries_modPort ..)
      · exact sameRetries_modPort ..
    · exact .refl b

theorem sameRetries_placeData (r : TagRec) (poisoned : Bool) (data : List Byte) (s : State) :
    SameRetries s (placeData r poisoned data s) := by
  unfold placeData
  split
  · exact .refl s
  · dsimp only
    split <;> exact .of_eq rfl rfl

/-! Operations by which tags leave the queue -/

/-- The tags that `keep` refuses leave the queue and wait no more, none of them is left the holder, and the others stand. -/
theorem retriesQueued_filter {s u : State} (keep : Tag → Bool) (hs : RetriesQueued s)
    (hq : u.arb.retryQ = s.arb.retryQ.filter keep)
    (hh : ∀ x, u.arb.dataHold = some (.tag x) → s.arb.dataHold = some (.tag x) ∧ keep x = true)
    (hw : ∀ x, waitsAsRetry (u.tagRec x) = (waitsAsRetry (s.tagRec x) && keep x)) : RetriesQueued u := by
  obtain ⟨hn, hm, hd⟩ := hs
  refine ⟨hq ▸ hn.filter _, fun x => ?_, fun x hx => ?_⟩
  · rw [hq, List.mem_filter, hm, waitsForRetry_eq, waitsForRetry_eq, hw, Bool.and_eq_true]
  · obtain ⟨hx1, hx2⟩ := hh x hx
    obtain ⟨l, hl⟩ := List.head?_eq_some_iff.1 (hd x hx1)
    rw [hq, hl, List.filter_cons_of_pos hx2, List.head?_cons]

theorem leaveRetryQueue_holder {t x : Tag} {a : Arbiter} (hx : (leaveRetryQueue t a).dataHold = some (.tag x)) :
    a.dataHold = some (.tag x) ∧ (x != t) = true := by
  simp only [leaveRetryQueue] at hx
  split at hx
  · cases hx
  · rename_i hne
    refine ⟨hx, ?_⟩
    rw [bne_iff_ne]
    rintro rfl
    exact hne hx

/-- A tag leaves the retry queue for a record that does not wait (R14, R62). -/
theorem retriesQueued_leave {s u : State} {t : Tag} {r : Option TagRec} (hs : RetriesQueued s)
    (harb : u.arb = leaveRetryQueue t s.arb) (htags : u.tags = (s.setTag t r).tags) (hr : waitsAsRetry r = false) :
    RetriesQueued u := by
  refine retriesQueued_filter (· != t) hs (by rw [harb]; rfl) (fun x hx => leaveRetryQueue_holder (harb ▸ hx)) fun x => ?_
  have : u.tagRec x = if x = t then r else s.tagRec x := by
    rw [← tagRec_setTag, State.tagRec, htags, State.tagRec]
  rw [this]
  by_cases hx : x = t <;> simp [hx, hr]

theorem expireTag_keeps_retriesQueued {s : State} (hs : RetriesQueued s) (t : Tag) : RetriesQueued (expireTag t s) := by
  unfold expireTag
  cases hr : s.tagRec t with
  | none => exact hs
  | some r =>
    have hlapse (hw : waitsAsRetry (some r) = false) (e : LogEntry) : RetriesQueued (appendLog e (lapse t r s)) :=
      ((sameRetries_lapse r (hr ▸ hw)).trans (sameRetries_appendLog ..)).keeps hs
    dsimp only
    split
    · exact hs
    · exact retriesQueued_leave hs rfl rfl rfl
    · exact hlapse (waitsAsRetry_of_issued ‹_›) _
    · exact hlapse (waitsAsRetry_of_filling ‹_›) _

theorem takeDeadlines_keeps_retriesQueued {s : State} (hs : RetriesQueued s) : RetriesQueued (takeDeadlines s) :=
  ((sameRetries_retireAll ..).trans (sameRetries_drainTest _)).keeps
    (foldl_keeps (P := RetriesQueued) (fun _ t ha => expireTag_keeps_retriesQueued ha t) _ hs)

/-- The tags whose backoffs end were not in the queue, and join it once each (R15). -/
theorem takeBackoffEnds_keeps_retriesQueued {s : State} (hs : RetriesQueued s) : RetriesQueued (takeBackoffEnds s) := by
  obtain ⟨harb, htag, -⟩ := takeBackoffEnds_spec s
  obtain ⟨hn, hw, hd⟩ := hs
  have hdue (x : Tag) (hx : backoffDue s x = true) :
      waitsAsRetry (s.tagRec x) = false ∧ waitsAsRetry ((takeBackoffEnds s).tagRec x) = true := by
    obtain ⟨r, d, e, hr, hp, -, -⟩ := backoffDue_iff.1 hx
    rw [htag, if_pos hx, hr, Option.map_some, TagRec.backoffEnded_of_phase hp]
    simp [waitsAsRetry, hp]
  refine ⟨?_, fun x => ?_, fun x hx => ?_⟩
  · rw [harb]
    refine hn.append ((List.nodup_finRange 128).filter _) fun x hq hf => ?_
    have hx := (hw x).1 hq
    rw [waitsForRetry_eq, (hdue x (List.mem_filter.1 hf).2).1] at hx
    cases hx
  · rw [harb, List.mem_append, hw, waitsForRetry_eq, waitsForRetry_eq, List.mem_filter]
    by_cases hx : backoffDue s x = true
    · simp [hx, hdue x hx]
    · simp [hx, htag]
  · rw [harb] at hx ⊢
    obtain ⟨l, hl⟩ := List.head?_eq_some_iff.1 (hd x hx)
    simp [hl]

theorem sameRetries_takeQuarantineEnds (s : State) : SameRetries s (takeQuarantineEnds s) := by
  obtain ⟨htag, -⟩ := takeQuarantineEnds_spec s
  have harb := takeQuarantineEnds_arb s
  refine ⟨by rw [harb], fun x hx => harb ▸ hx, fun x => ?_⟩
  rw [htag]
  split
  · obtain ⟨r, q, hr, hp, -⟩ := quarantineDue_iff.1 ‹_›
    rw [hr, waitsAsRetry_of_lapsed hp]
    rfl
  · rfl

/-! Port resets (R71) -/

theorem holderOf_congr {s u : State} (h : Port) (htags : u.tags = s.tags) : holderOf u h = holderOf s h := by
  funext x
  cases x <;> simp [holderOf, State.tagRec, htags]

theorem portResetTaken_arb (h : Port) (c : EndCause) (s : State) :
    (portResetTaken h c s).arb.retryQ = s.arb.retryQ.filter (fun x => !chargedTo h (s.tagRec x)) ∧
      (portResetTaken h c s).arb.dataHold = s.arb.dataHold.filter (fun x => !holderOf s h x) ∧
      (portResetTaken h c s).arb.claims = s.arb.claims.filter (fun x => x.1 != h) := by
  unfold portResetTaken
  simp [arbAtPortReset, holderOf_congr (s := s) (u := raiseEvent _ (appendLog _ s)) h (by simp)]

theorem waitsAsRetry_orphanTag (h : Port) (r : Option TagRec) :
    waitsAsRetry (orphanTag h r) = (waitsAsRetry r && !chargedTo h r) := by
  cases r with
  | none => rfl
  | some r =>
    by_cases hp : r.port = h
    · cases hph : r.phase <;> simp [orphanTag, waitsAsRetry, chargedTo, hp, hph]
    · simp [orphanTag, chargedTo, hp]

theorem portResetTaken_keeps_retriesQueued {s : State} (hs : RetriesQueued s) (h : Port) (c : EndCause) :
    RetriesQueued (portResetTaken h c s) := by
  obtain ⟨hq, hh, -⟩ := portResetTaken_arb h c s
  refine retriesQueued_filter _ hs hq (fun x hx => ?_) fun x => ?_
  · rw [hh, Option.filter_eq_some_iff] at hx
    exact hx
  · rw [portResetTaken_tagRec, waitsAsRetry_orphanTag]

end Sys2Proof.Machine
end

section
/-! SUPPORT. That each event keeps the retry queue, up to the step. -/

namespace Sys2Proof.Machine

/-! Evaluations and grants -/

/-- The lowest-numbered FREE tag is FREE, and no lower one is (R7). -/
theorem lowestFreeTag_eq_some {s : State} {t : Tag} (h : lowestFreeTag s = some t) :
    s.tagRec t = none ∧ ∀ z : Tag, z < t → s.tagRec z ≠ none := by
  rw [lowestFreeTag, List.find?_eq_some_iff_append] at h
  obtain ⟨ht, as, bs, hsplit, has⟩ := h
  refine ⟨Option.isNone_iff_eq_none.1 ht, fun z hz hnone => ?_⟩
  have hsorted : (as ++ t :: bs).Pairwise (· < ·) := hsplit ▸ List.pairwise_lt_finRange 128
  have hmem : z ∈ as ++ t :: bs := hsplit ▸ List.mem_finRange z
  rcases List.mem_append.1 hmem with hz' | hz'
  · simpa [hnone] using has z hz'
  · rcases List.mem_cons.1 hz' with rfl | hz'
    · exact lt_irrefl _ hz
    · exact lt_asymm hz ((List.pairwise_cons.1 (List.pairwise_append.1 hsorted).2.1).1 z hz')

theorem TagRec.backoffDeadline_eq_some {r : TagRec} {d : Tick} :
    r.backoffDeadline = some d ↔ ∃ e, r.phase = .backoff d e := by
  unfold TagRec.backoffDeadline
  cases r.phase <;> simp

theorem retryHead_eq_some {s : State} {t : Tag} {r : TagRec} {d : Tick} :
    retryHead s = some (t, r, d) ↔ s.arb.retryQ.head? = some t ∧ s.tagRec t = some r ∧ ∃ e, r.phase = .backoff d e := by
  constructor
  · intro h
    unfold retryHead at h
    split at h
    · cases h
    · split at h
      · cases h
      · obtain ⟨d', hd, heq⟩ := Option.map_eq_some_iff.1 h
        cases heq
        exact ⟨‹_›, ‹_›, TagRec.backoffDeadline_eq_some.1 hd⟩
  · rintro ⟨hq, hr, hd⟩
    simp [retryHead, hq, hr, TagRec.backoffDeadline_eq_some.2 hd]

theorem eligibleRetry_eq_some {s : State} {t : Tag} {r : TagRec} {d : Tick} :
    eligibleRetry s = some (t, r, d) ↔
      retryHead s = some (t, r, d) ∧ retryButData s t r = true ∧ r.dataNeed ≤ s.target.heldData := by
  unfold eligibleRetry
  cases retryHead s with
  | none => simp
  | some x =>
    obtain ⟨t', r', d'⟩ := x
    simp only [Option.ite_none_right_eq_some, Option.some.injEq, Bool.and_eq_true, decide_eq_true_eq]
    constructor
    · rintro ⟨hgo, he⟩
      cases he
      exact ⟨rfl, hgo⟩
    · rintro ⟨he, hgo⟩
      cases he
      exact ⟨hgo, rfl⟩

/-- A hold that an evaluation gives to a tag goes to the head of the retry queue (R63). -/
theorem holdDue_eq_tag {s : State} {t : Tag} (h : holdDue s = some (.tag t)) : s.arb.retryQ.head? = some t := by
  unfold holdDue at h
  split at h
  · cases h
  · split at h
    · rename_i hr
      split at h
      · cases h; exact (retryHead_eq_some.1 hr).1
      · split at h <;> cases h
    · split at h <;> cases h

theorem settleHold_keeps_retriesQueued {s : State} (hs : RetriesQueued s) : RetriesQueued (settleHold s) := by
  unfold settleHold
  split
  · exact hs
  · rename_i y hy
    obtain ⟨hn, hw, -⟩ := hs
    exact ⟨hn, hw, fun x hx => (holdDue_eq_tag (s := s) (hy.trans hx) :)⟩

theorem evaluate_keeps_retriesQueued {s : State} (hs : RetriesQueued s) : RetriesQueued (evaluate s) := by
  unfold evaluate
  exact settleHold_keeps_retriesQueued
    (((sameRetries_ceilingRetires s).trans (sameRetries_enterClaims _)).keeps hs)

theorem advancePointer_retryQ (h : Port) (w : Nat) (a : Arbiter) : (advancePointer h w a).retryQ = a.retryQ := by
  simp only [advancePointer, apply_ite Arbiter.retryQ, ite_self]
theorem advancePointer_dataHold (h : Port) (w : Nat) (a : Arbiter) : (advancePointer h w a).dataHold = a.dataHold := by
  simp only [advancePointer, apply_ite Arbiter.dataHold, ite_self]

/-- The arbiter after a grant to port `h`: of the retry queue and the hold, no more than the port's own hold ends. -/
theorem grantArb_retries (h : Port) (w : Nat) (claim : Bool) (a : Arbiter) :
    (if claim then dropClaim h (advancePointer h w (endPortHold h a)) else advancePointer h w (endPortHold h a)).retryQ =
        a.retryQ ∧
      (if claim then dropClaim h (advancePointer h w (endPortHold h a))
        else advancePointer h w (endPortHold h a)).dataHold = (endPortHold h a).dataHold := by
  cases claim <;>
    simp [dropClaim, advancePointer_retryQ, advancePointer_dataHold, endPortHold_retryQ]

/-- A grant takes a tag that was FREE into ISSUED, or none: no tag joins or leaves the retry queue (R7, R60). -/
theorem sameRetries_grantWith (h : Port) (x : Head) {tag : Option Tag} {s : State}
    (hfree : ∀ t, tag = some t → s.tagRec t = none) : SameRetries s (grantWith h x tag s) := by
  unfold grantWith
  extract_lets blocks treq s1 s2 a
  have htag : SameRetries s s1 := by
    unfold s1
    split
    · exact sameRetries_setTag (by rw [hfree _ rfl, waitsAsRetry_of_issued rfl]; rfl)
    · exact .refl s
  refine htag.trans (SameRetries.trans ?_ (sameRetries_drainTest _))
  refine ⟨(grantArb_retries h (s.portPolicy h).weight x.reserves s2.arb).1, fun y hy => ?_, fun _ => rfl⟩
  exact endPortHold_holder ((grantArb_retries h (s.portPolicy h).weight x.reserves s2.arb).2.symm.trans hy)

theorem sameRetries_grantPort (h : Port) (x : Head) (s : State) : SameRetries s (grantPort h x s) := by
  refine sameRetries_grantWith h x fun t ht => ?_
  split at ht
  · cases ht
  · exact (lowestFreeTag_eq_some ht).1

/-- The head of the retry queue goes back to ISSUED and leaves the queue (R7, R62). -/
theorem grantRetry_keeps_retriesQueued {s : State} (hs : RetriesQueued s) (t : Tag) (r : TagRec) (d : Tick) :
    RetriesQueued (grantRetry t r d s) :=
  retriesQueued_leave hs rfl rfl (waitsAsRetry_of_issued rfl)

theorem issueGrantStep_keeps_retriesQueued {s : State} (hs : RetriesQueued s) : RetriesQueued (issueGrantStep s) := by
  have h1 := evaluate_keeps_retriesQueued hs
  unfold issueGrantStep
  dsimp only
  split
  · exact h1
  · split
    · exact (sameRetries_grantPort ..).keeps h1
    · exact h1

theorem retryGrantStep_keeps_retriesQueued {s : State} (hs : RetriesQueued s) : RetriesQueued (retryGrantStep s) := by
  have h1 := evaluate_keeps_retriesQueued hs
  unfold retryGrantStep
  dsimp only
  split
  · exact grantRetry_keeps_retriesQueued h1 ..
  · exact h1

/-! The target lane -/

/-- Step 3 of a target lane loss leaves every tag FREE, so that nothing waits for a retry (R22, R72). -/
theorem releaseAll_spec (s : State) :
    (∀ t, (releaseAll s).tagRec t = none) ∧ (releaseAll s).arb.retryQ = [] ∧ (releaseAll s).arb.dataHold = none ∧
      (releaseAll s).arb.reshape = .idle := by
  unfold releaseAll
  dsimp only
  split
  · exact ⟨fun t => by simp [State.tagRec], rfl, rfl, ‹_›⟩
  · exact ⟨fun t => by simp [State.tagRec, completeDrain], rfl, rfl, rfl⟩

theorem releaseAll_retriesQueued (s : State) : RetriesQueued (releaseAll s) := by
  obtain ⟨htag, hq, hh, -⟩ := releaseAll_spec s
  refine ⟨by simp [hq], fun t => ?_, by simp [hh]⟩
  rw [hq, waitsForRetry_eq, htag]
  simp [waitsAsRetry]

theorem targetLoss_retriesQueued (c : DownCause) (s : State) : RetriesQueued (targetLoss c s) := by
  unfold targetLoss
  refine SameRetries.keeps ?_ (releaseAll_retriesQueued (s.modTarget (enterTargetHoldoff s.timebase c)))
  exact ((sameRetries_failPorts _).trans (sameRetries_modPorts ..)).trans (sameRetries_appendLog ..)

theorem loseTarget_keeps_retriesQueued {s : State} (hs : RetriesQueued s) : RetriesQueued (loseTarget s) := by
  unfold loseTarget
  dsimp only
  split
  · exact (SameRetries.of_eq rfl rfl).keeps hs
  · exact targetLoss_retriesQueued ..
  · exact (sameRetries_modTarget ..).keeps hs
  · exact (sameRetries_modTarget ..).keeps hs

theorem downWith_keeps_retriesQueued {s : State} (hs : RetriesQueued s) (c : DownCause) : RetriesQueued (downWith c s) := by
  unfold downWith
  split
  · exact (sameRetries_modTarget ..).keeps hs
  · exact targetLoss_retriesQueued ..
  · exact hs
  · exact hs

theorem sameRetries_takeTrainAck (hdr data size : Nat) (s : State) : SameRetries s (takeTrainAck hdr data size s) := by
  unfold takeTrainAck
  split
  · split
    · unfold bringUp
      exact ((((sameRetries_modTarget ..).trans (sameRetries_endAllStranded ..)).trans (sameRetries_modPorts ..)).trans
        (sameRetries_modTarget ..)).trans (sameRetries_drainTest _)
    · exact sameRetries_modTarget ..
  · exact .refl s
  · exact .refl s
  · exact .refl s

theorem takeTcredit_keeps_retriesQueued {s : State} (hs : RetriesQueued s) (hdr data : Nat) :
    RetriesQueued (takeTcredit hdr data s) := by
  unfold takeTcredit
  split
  · exact (sameRetries_modTarget ..).keeps hs
  · exact targetLoss_retriesQueued ..

theorem sameRetries_takeTrainEnd (s : State) : SameRetries s (takeTrainEnd s) := by
  unfold takeTrainEnd
  split
  · split
    · exact sameRetries_modTarget ..
    · exact .refl s
  · exact .refl s

theorem sameRetries_endTargetHoldoff (s : State) : SameRetries s (endTargetHoldoff s) := by
  unfold endTargetHoldoff
  split
  · split
    · split <;> exact sameRetries_modTarget ..
    · exact .refl s
  · exact .refl s

/-! Completion parts -/

theorem sameRetries_acceptData {s : State} {t : Tag} (r : TagRec) (d : Tick) (n : Nat)
    (hw : waitsAsRetry (s.tagRec t) = false) : SameRetries s (acceptData t r d n s) := by
  unfold acceptData
  split
  · exact sameRetries_freeTag hw
  · exact sameRetries_setTag (by rw [hw]; exact waitsAsRetry_of_filling rfl)

/-- A part for a live tag in ISSUED or FILLING: RETRY begins a backoff, which has yet to end (R10, R15). -/
theorem sameRetries_livePart {s : State} {t : Tag} (r : TagRec) (d : Tick) (q : Part)
    (hw : waitsAsRetry (s.tagRec t) = false) : SameRetries s (livePart t r d q s) := by
  unfold livePart
  split
  · exact ((sameRetries_lapse r hw).trans (sameRetries_appendLog ..)).trans (sameRetries_retire ..)
  · unfold takeRetry
    split
    · exact sameRetries_setTag (by rw [hw]; rfl)
    · exact ((sameRetries_freeTag hw).trans (sameRetries_appendLog ..)).trans (sameRetries_retire ..)
  · exact (sameRetries_freeTag hw).trans (sameRetries_retire ..)
  · have hplace := sameRetries_placeData r ‹_› q.data s
    have haccept := hplace.trans (sameRetries_acceptData r d q.data.length ((hplace.waits t).trans hw))
    dsimp only
    split
    · exact haccept.trans (sameRetries_retire ..)
    · exact haccept

theorem sameRetries_orphanPart {s : State} {t : Tag} (r : TagRec) (d : Tick) (q : Part)
    (hw : waitsAsRetry (s.tagRec t) = false) : SameRetries s (orphanPart t r d q s) := by
  unfold orphanPart
  split
  · exact (sameRetries_lapse r hw).trans (sameRetries_appendLog ..)
  · exact sameRetries_freeTag hw
  · exact sameRetries_freeTag hw
  · exact sameRetries_acceptData r d _ hw

theorem sameRetries_takePart (t : Tag) (q : Part) (s : State) : SameRetries s (takePart t q s) := by
  unfold takePart
  cases hr : s.tagRec t with
  | none => exact sameRetries_appendLog ..
  | some r =>
    have hrun (d : Tick) (hw : waitsAsRetry (some r) = false) :
        SameRetries s (if r.orphaned then orphanPart t r d q s else livePart t r d q s) := by
      split
      · exact sameRetries_orphanPart r d q (hr ▸ hw)
      · exact sameRetries_livePart r d q (hr ▸ hw)
    dsimp only
    split
    · exact sameRetries_appendLog ..
    · exact sameRetries_appendLog ..
    · exact hrun _ (waitsAsRetry_of_issued ‹_›)
    · exact hrun _ (waitsAsRetry_of_filling ‹_›)

/-! Host lanes and sessions -/

theorem sameRetries_attachHandshake (h : Port) (mask : NoticeBits) (hdr data : Nat) (s : State) :
    SameRetries s (attachHandshake h mask hdr data s) := by
  unfold attachHandshake
  split <;> exact .of_eq rfl rfl

theorem takeAttach_keeps_retriesQueued {s : State} (hs : RetriesQueued s) (h : Port) (mask : NoticeBits)
    (hdr data : Nat) : RetriesQueued (takeAttach h mask hdr data s) := by
  unfold takeAttach
  split
  · exact (sameRetries_attachHandshake ..).keeps hs
  · exact (sameRetries_attachHandshake ..).keeps hs
  · exact (sameRetries_attachHandshake ..).keeps (portResetTaken_keeps_retriesQueued hs ..)
  · exact hs
  · exact hs

theorem portResetOnLane_keeps_retriesQueued {s : State} (hs : RetriesQueued s) (h : Port) :
    RetriesQueued (portResetOnLane h s) := by
  unfold portResetOnLane
  split
  · exact portResetTaken_keeps_retriesQueued hs ..
  · exact (sameRetries_modPort ..).keeps hs
  · exact (sameRetries_modPort ..).keeps hs
  · exact hs
  · exact hs

theorem takeStallExpiry_keeps_retriesQueued {s : State} (hs : RetriesQueued s) (h : Port) :
    RetriesQueued (takeStallExpiry h s) := by
  unfold takeStallExpiry
  split
  · have hlog (e : LogEntry) : RetriesQueued (raiseEvent (eventStall h) (appendLog e s)) :=
      ((sameRetries_appendLog e s).trans (.of_eq rfl rfl)).keeps hs
    dsimp only
    split
    · exact (sameRetries_modPort ..).keeps (hlog _)
    · exact portResetTaken_keeps_retriesQueued (hlog _) ..
    · exact portResetTaken_keeps_retriesQueued (hlog _) ..
  · exact hs

theorem loseCarrier_keeps_retriesQueued {s : State} (hs : RetriesQueued s) (h : Port) :
    RetriesQueued (loseCarrier h s) := by
  have h1 := (sameRetries_modPort s h fun p => { p with carrier := false }).keeps hs
  unfold loseCarrier
  dsimp only
  split
  · exact (sameRetries_modPort ..).keeps h1
  · exact (sameRetries_modPort ..).keeps h1
  · exact portResetTaken_keeps_retriesQueued h1 ..
  · exact h1
  · exact h1

theorem failCheck_keeps_retriesQueued {s : State} (hs : RetriesQueued s) (h : Port) : RetriesQueued (failCheck h s) := by
  unfold failCheck
  split
  · exact (sameRetries_modPort ..).keeps hs
  · exact (sameRetries_modPort ..).keeps hs
  · exact portResetTaken_keeps_retriesQueued hs ..
  · exact hs
  · exact hs

theorem sameRetries_endHoldoff (h : Port) (s : State) : SameRetries s (endHoldoff h s) := by
  unfold endHoldoff
  split
  · exact sameRetries_modPort ..
  · exact .refl s

/-! Requests -/

theorem sameRetries_admitRequest (h : Port) (i : Slot) (r : ReqRec) (id : HostId) (addr : BitVec 48) (s : State) :
    SameRetries s (admitRequest h i r id addr s) := by
  unfold admitRequest
  split
  · exact sameRetries_modPort ..
  · dsimp only
    split
    · exact sameRetries_modPort ..
    · split
      · exact sameRetries_modPort ..
      · split
        · exact (sameRetries_modPort ..).trans (sameRetries_appendLog ..)
        · exact sameRetries_modPort ..

theorem sameRetries_intake (h : Port) (kind : BitVec 8) (id : HostId) (cls : BitVec 2) (addr : BitVec 48) (len : Nat)
    (data : List Byte) (i : Slot) (blocks : List StageBlock) (s : State) :
    SameRetries s (intake h kind id cls addr len data i blocks s) := by
  unfold intake
  dsimp only
  split
  · exact ((sameRetries_modPort ..).trans (sameRetries_modPort ..)).trans (sameRetries_appendLog ..)
  · exact (sameRetries_modPort ..).trans (sameRetries_admitRequest ..)

theorem execRequest_keeps_retriesQueued {s t : State} (hs : RetriesQueued s) {h : Port} {kind : BitVec 8} {id : HostId}
    {cls : BitVec 2} {addr : BitVec 48} {len : BitVec 16} {data : List Byte}
    (ht : execRequest h kind id cls addr len data s = .next t) : RetriesQueued t := by
  unfold execRequest at ht
  split at ht
  · cases ht; exact hs
  · split at ht
    · cases ht
      exact (((sameRetries_modPort ..).trans (sameRetries_appendLog ..)).trans (sameRetries_reportAll _)).keeps hs
    · split at ht
      · cases ht
      · dsimp only at ht
        split at ht
        · cases ht
        · cases ht
          exact ((sameRetries_intake ..).trans (sameRetries_reportAll _)).keeps hs

/-! Resets and management -/

theorem resetBlocks_retriesQueued (c : ResetCause) (l : FaultLog) (f : PortState → PortState)
    (g : TargetLane → TargetLane) (s : State) : RetriesQueued (resetBlocks c l f g s) :=
  (SameRetries.of_eq (s := State.reset) rfl rfl).keeps (by decide +kernel)

theorem sameRetries_startDrain (size : Mrs) (s : State) : SameRetries s (startDrain size s) := by
  unfold startDrain
  refine SameRetries.trans ?_ (sameRetries_drainTest _)
  refine ⟨rfl, fun x hx => ?_, fun _ => rfl⟩
  dsimp only at hx
  split at hx
  · cases hx
  · exact hx

theorem sameRetries_commandReshape (b : BitVec 16) (s : State) : SameRetries s (commandReshape b s) := by
  unfold commandReshape
  split
  · exact sameRetries_setResult ..
  · split
    · exact sameRetries_setResult ..
    · exact (sameRetries_startDrain ..).trans (sameRetries_setResult ..)

theorem commandPortReset_keeps_retriesQueued {s : State} (hs : RetriesQueued s) (a : BitVec 8) :
    RetriesQueued (commandPortReset a s) := by
  unfold commandPortReset
  split
  · exact (sameRetries_setResult ..).keeps hs
  · exact (sameRetries_setResult ..).keeps (portResetOnLane_keeps_retriesQueued hs _)

theorem commandTargetReset_keeps_retriesQueued {s : State} (hs : RetriesQueued s) :
    RetriesQueued (commandTargetReset s) :=
  (sameRetries_setResult ..).keeps (downWith_keeps_retriesQueued hs _)

theorem sameRetries_commandTableFetch (a : BitVec 8) (b : BitVec 16) (s : State) :
    SameRetries s (commandTableFetch a b s) := by
  unfold commandTableFetch
  split <;> exact .of_eq rfl rfl

theorem disableLane_keeps_retriesQueued {s : State} (hs : RetriesQueued s) (h : Port) :
    RetriesQueued (disableLane h s) := by
  unfold disableLane
  split
  · exact portResetTaken_keeps_retriesQueued hs ..
  · exact (sameRetries_modPort ..).keeps hs
  · exact hs
  · exact hs
  · exact hs

theorem sameRetries_noticeChange (h : Port) (b : Bool) (s : State) : SameRetries s (noticeChange h b s) := by
  unfold noticeChange
  split
  · exact sameRetries_modPort ..
  · exact .refl s

theorem commitTable_keeps_retriesQueued {s t : State} (hs : RetriesQueued s) {x : TableIndex}
    (ht : commitTable x s = some t) : RetriesQueued t := by
  cases x with
  | port h =>
    simp only [commitTable, commitPort] at ht
    split at ht
    · cases ht
    · rename_i p _
      split at ht
      · cases ht
        have h1 : RetriesQueued (setPortPolicy h p s) := (SameRetries.of_eq rfl rfl).keeps hs
        refine (sameRetries_noticeChange ..).keeps ?_
        split
        · exact h1
        · exact disableLane_keeps_retriesQueued h1 h
      · cases ht
  | window i =>
    simp only [commitTable, commitWindow] at ht
    split at ht
    · cases ht
      exact (SameRetries.trans (.of_eq rfl rfl) (sameRetries_noticeChange ..)).keeps hs
    · cases ht
  | global =>
    obtain ⟨g, -, rfl⟩ := Option.map_eq_some_iff.1 ht
    exact (SameRetries.of_eq rfl rfl).keeps hs

theorem commandTableCommit_keeps_retriesQueued {s : State} (hs : RetriesQueued s) (a : BitVec 8) (b : BitVec 16) :
    RetriesQueued (commandTableCommit a b s) := by
  unfold commandTableCommit
  split
  · exact (sameRetries_setResult ..).keeps hs
  · split
    · exact (sameRetries_setResult ..).keeps hs
    · exact (sameRetries_setResult ..).keeps (commitTable_keeps_retriesQueued hs ‹_›)

theorem takeCommandWord_keeps_retriesQueued {s : State} (hs : RetriesQueued s) (w : Word) :
    RetriesQueued (takeCommandWord w s) := by
  unfold takeCommandWord
  split
  · exact (sameRetries_setResult ..).keeps hs
  · exact commandPortReset_keeps_retriesQueued hs _
  · exact (sameRetries_reportAll _).keeps (commandTargetReset_keeps_retriesQueued hs)
  · exact (sameRetries_setResult ..).keeps (resetBlocks_retriesQueued ..)
  · exact (sameRetries_commandReshape ..).keeps hs
  · exact (SameRetries.of_eq rfl rfl).keeps hs
  · exact (SameRetries.of_eq rfl rfl).keeps hs
  · exact (sameRetries_commandTableFetch ..).keeps hs
  · exact (sameRetries_reportAll _).keeps (commandTableCommit_keeps_retriesQueued hs ..)

theorem writeRegister_keeps_retriesQueued {s : State} (hs : RetriesQueued s) (a : BitVec 16) (w : Word) :
    RetriesQueued (writeRegister a w s) := by
  unfold writeRegister
  split
  · exact (SameRetries.of_eq rfl rfl).keeps hs
  · split
    · exact (SameRetries.of_eq rfl rfl).keeps hs
    · split
      · exact takeCommandWord_keeps_retriesQueued hs w
      · unfold writeStaging
        split <;> exact (SameRetries.of_eq rfl rfl).keeps hs

/-! The tick -/

/-- Every block's part of a tick keeps the retry queue: its own expiries by the lemmas of their rows. -/
theorem closeTick_keeps_retriesQueued {s : State} (hs : RetriesQueued s) : RetriesQueued (closeTick s) := by
  have h1 := takeDeadlines_keeps_retriesQueued hs
  have h2 := takeBackoffEnds_keeps_retriesQueued ((sameRetries_reportAll _).keeps h1)
  have h3 := ((sameRetries_takeQuarantineEnds _).trans (sameRetries_takeDrainLimit _)).keeps h2
  have h4 := foldl_keeps (P := RetriesQueued) (fun _ h ha => takeStallExpiry_keeps_retriesQueued ha h) allPorts h3
  unfold closeTick
  refine SameRetries.keeps ?_ h4
  exact ((sameRetries_foldl (fun a h => sameRetries_endHoldoff h a) allPorts _).trans
    (sameRetries_endTargetHoldoff _)).trans (sameRetries_takeTrainEnd _)

theorem sameRetries_advance (s : State) : SameRetries s (advance s) := by
  unfold advance
  exact SameRetries.trans (t := { s with timebase := s.timebase + 1 }) (.of_eq rfl rfl)
    (sameRetries_foldl (fun a h => sameRetries_modPort a h _) allPorts _)

/-! The step -/

theorem takes_keeps_retriesQueued {s t : State} {f : State → State} (hs : RetriesQueued s) (ht : takes f s = .next t)
    (hf : ∀ a, RetriesQueued a → RetriesQueued (f a)) : RetriesQueued t :=
  takes_keeps (P := RetriesQueued) hf hs ht

theorem takes_sameRetries {s t : State} {f : State → State} (hs : RetriesQueued s) (ht : takes f s = .next t)
    (hf : ∀ a, SameRetries a (f a)) : RetriesQueued t :=
  takes_keeps_retriesQueued hs ht fun a => (hf a).keeps

theorem atOpportunity_keeps {P : State → Prop} {f : State → State} (hf : ∀ a, P a → P (f a)) {s : State} (hs : P s) :
    P (atOpportunity f s) := by
  unfold atOpportunity
  split
  · exact hf s hs
  · exact hs

/-- Reports after an evaluation. -/
theorem takes_reportAll_atOpportunity {s t : State} {f : State → State} (hs : RetriesQueued s)
    (ht : takes (fun a => reportAll (atOpportunity f a)) s = .next t) (hf : ∀ a, RetriesQueued a → RetriesQueued (f a)) :
    RetriesQueued t :=
  takes_keeps_retriesQueued hs ht fun _ ha =>
    (sameRetries_reportAll _).keeps (atOpportunity_keeps (P := RetriesQueued) hf ha)

/-- Every command keeps the retry queue. -/
theorem exec_keeps_retriesQueued {c : Instr} {s t : State} (hs : RetriesQueued s) (ht : exec c s = .next t) :
    RetriesQueued t := by
  cases c <;> simp only [exec, execTickEvent, execDeadlineExpiry, execBackoffEnd, execQuarantineEnd, execDrainLimitExpiry,
    execDrainComplete, execStallExpiry, execHostCarrierDetect, execHostCarrierLoss, execHostCheckFailure,
    execHostHoldoffEnd, execAttach, execCredit, execNoticeAck, execHostUnusablePacket,
    execAttachAnswerStart, execGrantTransmissionStart, execNoticeTransmissionStart,
    execResponseTransmissionStart, execResponseTransmissionEnd, execGrantTransmissionEnd,
    execHostTransmissionEnd, execTargetCarrierDetect, execTargetCarrierLoss, execTargetCheckFailure,
    execTrainAck, execTrainEndTickExpiry, execTargetHoldoffEnd, execTcpl, execTcredit,
    execTargetUnusablePacket, execTreqTransmissionEnd, execIssueGrant, execRetryGrant, execClaimEntry,
    execDataCreditHold, execReadCeilingRetire, execFenceReady, execEventPendingWrite, execEventEnableWrite,
    execRegisterWrite, execWriteFrameDiscard, execInvalidCommand, execPortReset, execTargetReset,
    execSoftReset, execReshape, execLogPop, execLogClear, execTableFetch, execTableCommit, execPowerOnReset,
    execPinReset, execResetHoldBegin] at ht
  case tickEvent =>
    exact takes_keeps_retriesQueued hs ht (fun _ h => (sameRetries_advance _).keeps (closeTick_keeps_retriesQueued h))
  case deadlineExpiry =>
    exact takes_keeps_retriesQueued hs ht (fun _ h => (sameRetries_reportAll _).keeps (takeDeadlines_keeps_retriesQueued h))
  case backoffEnd => exact takes_keeps_retriesQueued hs ht (fun _ => takeBackoffEnds_keeps_retriesQueued)
  case quarantineEnd => exact takes_sameRetries hs ht sameRetries_takeQuarantineEnds
  case drainLimitExpiry => exact takes_sameRetries hs ht sameRetries_takeDrainLimit
  case drainComplete => exact takes_sameRetries hs ht sameRetries_drainTest
  case stallExpiry h => exact takes_keeps_retriesQueued hs ht (fun _ ha => takeStallExpiry_keeps_retriesQueued ha h)
  case hostCarrierDetect h =>
    cases ht
    split <;> exact (sameRetries_modPort ..).keeps hs
  case hostCarrierLoss h =>
    cases ht
    split
    · exact (sameRetries_modPort ..).keeps hs
    · exact loseCarrier_keeps_retriesQueued hs h
  case hostCheckFailure h => exact takes_keeps_retriesQueued hs ht (fun _ ha => failCheck_keeps_retriesQueued ha h)
  case hostHoldoffEnd h => exact takes_sameRetries hs ht (sameRetries_endHoldoff h)
  case attach h mask hdr data =>
    exact takes_keeps_retriesQueued hs ht (fun _ ha => (sameRetries_reportAll _).keeps (takeAttach_keeps_retriesQueued ha ..))
  case request h kind id cls addr len data => exact execRequest_keeps_retriesQueued hs ht
  case credit h hdr data =>
    refine takes_sameRetries hs ht fun a => ?_
    split <;> exact .of_eq rfl rfl
  case noticeAck h bits =>
    refine takes_sameRetries hs ht fun a => ?_
    split <;> exact .of_eq rfl rfl
  case hostUnusablePacket h bytes => exact takes_sameRetries hs ht .refl
  case attachAnswerStart h => exact takes_sameRetries hs ht fun _ => .of_eq rfl rfl
  case grantTransmissionStart h => exact takes_sameRetries hs ht fun _ => .of_eq rfl rfl
  case noticeTransmissionStart h => exact takes_sameRetries hs ht fun _ => .of_eq rfl rfl
  case responseTransmissionStart h => exact takes_sameRetries hs ht fun _ => .of_eq rfl rfl
  case responseTransmissionEnd h => exact takes_sameRetries hs ht fun _ => .of_eq rfl rfl
  case grantTransmissionEnd h => exact takes_sameRetries hs ht fun _ => .of_eq rfl rfl
  case hostTransmissionEnd h => exact takes_sameRetries hs ht fun _ => .of_eq rfl rfl
  case targetCarrierDetect =>
    cases ht
    unfold detectTarget
    dsimp only
    split
    · exact (sameRetries_modTarget ..).keeps hs
    · split <;> exact (SameRetries.of_eq rfl rfl).keeps hs
  case targetCarrierLoss =>
    cases ht
    split
    · exact (sameRetries_modTarget ..).keeps hs
    · exact (sameRetries_reportAll _).keeps (loseTarget_keeps_retriesQueued hs)
  case targetCheckFailure =>
    exact takes_keeps_retriesQueued hs ht (fun _ ha => (sameRetries_reportAll _).keeps (downWith_keeps_retriesQueued ha _))
  case trainAck hdr data size =>
    exact takes_sameRetries hs ht fun _ => (sameRetries_takeTrainAck ..).trans (sameRetries_reportAll _)
  case trainEndTickExpiry => exact takes_sameRetries hs ht sameRetries_takeTrainEnd
  case targetHoldoffEnd => exact takes_sameRetries hs ht sameRetries_endTargetHoldoff
  case tcpl tag status remaining data =>
    refine takes_sameRetries hs ht fun a => ?_
    split
    · exact ((sameRetries_takePart ..).trans (sameRetries_drainTest _)).trans (sameRetries_reportAll _)
    · exact .refl a
  case tcredit hdr data =>
    refine takes_keeps_retriesQueued hs ht (fun a ha => ?_)
    split
    · exact (sameRetries_reportAll _).keeps (takeTcredit_keeps_retriesQueued ha ..)
    · exact ha
  case targetUnusablePacket bytes => exact takes_sameRetries hs ht .refl
  case treqTransmissionEnd => exact takes_sameRetries hs ht fun _ => sameRetries_modTarget ..
  case issueGrant => exact takes_reportAll_atOpportunity hs ht fun _ => issueGrantStep_keeps_retriesQueued
  case retryGrant => exact takes_reportAll_atOpportunity hs ht fun _ => retryGrantStep_keeps_retriesQueued
  case claimEntry =>
    exact takes_reportAll_atOpportunity hs ht fun a =>
      ((sameRetries_ceilingRetires a).trans (sameRetries_enterClaims _)).keeps
  case dataCreditHold => exact takes_reportAll_atOpportunity hs ht fun _ => evaluate_keeps_retriesQueued
  case readCeilingRetire => exact takes_reportAll_atOpportunity hs ht fun a => (sameRetries_ceilingRetires a).keeps
  case fenceReady h => exact takes_sameRetries hs ht fun _ => .of_eq rfl rfl
  case eventPendingWrite w => exact takes_sameRetries hs ht fun _ => .of_eq rfl rfl
  case eventEnableWrite w => exact takes_sameRetries hs ht fun _ => .of_eq rfl rfl
  case registerWrite addr w => exact takes_keeps_retriesQueued hs ht (fun _ ha => writeRegister_keeps_retriesQueued ha addr w)
  case writeFrameDiscard => exact takes_sameRetries hs ht fun _ => .of_eq rfl rfl
  case invalidCommand w =>
    refine takes_sameRetries hs ht fun a => ?_
    split
    · exact .refl a
    · exact sameRetries_setResult ..
  case portReset a => exact takes_keeps_retriesQueued hs ht (fun _ ha => commandPortReset_keeps_retriesQueued ha a)
  case targetReset =>
    exact takes_keeps_retriesQueued hs ht (fun _ ha => (sameRetries_reportAll _).keeps (commandTargetReset_keeps_retriesQueued ha))
  case softReset =>
    exact takes_keeps_retriesQueued hs ht (fun _ _ => (sameRetries_setResult ..).keeps (resetBlocks_retriesQueued ..))
  case reshape b => exact takes_sameRetries hs ht (sameRetries_commandReshape b)
  case logPop => exact takes_sameRetries hs ht fun _ => .of_eq rfl rfl
  case logClear => exact takes_sameRetries hs ht fun _ => .of_eq rfl rfl
  case tableFetch a b => exact takes_sameRetries hs ht (sameRetries_commandTableFetch a b)
  case tableCommit a b =>
    exact takes_keeps_retriesQueued hs ht (fun _ ha => (sameRetries_reportAll _).keeps (commandTableCommit_keeps_retriesQueued ha a b))
  case powerOnReset =>
    cases ht
    split
    · exact hs
    · exact resetBlocks_retriesQueued ..
  case pinReset =>
    cases ht
    split
    · exact hs
    · exact resetBlocks_retriesQueued ..
  case resetHoldBegin c => exact takes_sameRetries hs ht fun _ => .of_eq rfl rfl

end Sys2Proof.Machine

namespace Sys2Proof.Proofs

open Sys2Proof.Machine

/-- Settles O8: `exec_keeps_retriesQueued` for the command at the front of the queue; the queue of commands is no part of
what the retry queue rests on. -/
theorem stepKeepsRetriesQueued : Obligations.StepKeepsRetriesQueued := by
  intro s t hs ht
  unfold step at ht
  split at ht
  · cases ht
    exact hs
  · rename_i rest _
    have hrest : SameRetries s { s with pending := rest } := .of_eq rfl rfl
    exact exec_keeps_retriesQueued (hrest.keeps hs) ht

end Sys2Proof.Proofs
end

section
/-! SUPPORT. The retirements that one event brings (R86, R88, R92): the acceptance order, the list of live subrequests, and
what a list of failure retirements makes of a record. -/

namespace Sys2Proof.Machine

/-! The acceptance order (R26) -/

theorem insertByAge_perm (p : PortState) (x : Slot) (l : List Slot) : (insertByAge p x l).Perm (x :: l) := by
  induction l with
  | nil => exact .refl _
  | cons y l ih =>
    unfold insertByAge
    split
    · exact (ih.cons y).trans (.swap x y l)
    · exact .refl _

/-- The acceptance order is the occupied slots, each once. -/
theorem acceptanceOrder_perm (p : PortState) :
    p.acceptanceOrder.Perm (allSlots.filter fun i => (p.slot i).isSome) := by
  unfold PortState.acceptanceOrder
  induction allSlots.filter fun i => (p.slot i).isSome with
  | nil => exact .refl _
  | cons y l ih => exact (insertByAge_perm p y _).trans (ih.cons y)

theorem mem_acceptanceOrder {p : PortState} {i : Slot} : i ∈ p.acceptanceOrder ↔ (p.slot i).isSome = true := by
  simp [(acceptanceOrder_perm p).mem_iff, List.mem_finRange]

theorem acceptanceOrder_nodup (p : PortState) : p.acceptanceOrder.Nodup :=
  (acceptanceOrder_perm p).nodup_iff.2 ((List.nodup_finRange 16).filter _)

/-! The live subrequests (R86) -/

/-- An issued entry that has not retired, with its tag. -/
theorem mem_outstanding {r : ReqRec} {n : Nat} {t : Tag} :
    (n, t) ∈ outstanding r ↔
      ∃ c x, r.cut = some c ∧ c.subs[n]? = some x ∧ x.outcome = none ∧ x.tag = some t := by
  unfold outstanding
  cases r.cut with
  | none => simp
  | some c =>
    simp only [List.mem_filterMap, Prod.exists, List.mem_zipIdx_iff_getElem?, Option.some.injEq, exists_and_left,
      exists_eq_left']
    constructor
    · rintro ⟨x, k, hx, h⟩
      split at h
      · obtain ⟨u, hu, he⟩ := Option.map_eq_some_iff.1 h
        cases he
        exact ⟨x, hx, Option.isNone_iff_eq_none.1 ‹_›, hu⟩
      · cases h
    · rintro ⟨x, hx, ho, ht⟩
      exact ⟨x, n, hx, by simp [ho, ht]⟩

/-- The live subrequests of the record in one slot. -/
def slotLive (s : State) (h : Port) (i : Slot) : List (Port × Slot × Nat × Tag) :=
  match (s.port h).slot i with
  | none => []
  | some r => (outstanding r).filterMap fun (n, t) => if liveFor s h i n t then some (h, i, n, t) else none

theorem liveEntries_eq (s : State) :
    liveEntries s = allPorts.flatMap fun h => (s.port h).acceptanceOrder.flatMap (slotLive s h) := rfl

theorem mem_slotLive {s : State} {h g : Port} {i j : Slot} {n : Nat} {t : Tag} :
    (g, j, n, t) ∈ slotLive s h i ↔
      g = h ∧ j = i ∧ ∃ r, (s.port h).slot i = some r ∧ (n, t) ∈ outstanding r ∧ liveFor s h i n t = true := by
  unfold slotLive
  cases (s.port h).slot i with
  | none => simp
  | some r =>
    simp only [List.mem_filterMap, Option.some.injEq, exists_eq_left']
    constructor
    · rintro ⟨⟨k, u⟩, hk, he⟩
      dsimp only at he
      split at he
      · cases he
        exact ⟨rfl, rfl, hk, ‹_›⟩
      · cases he
    · rintro ⟨rfl, rfl, ho, hl⟩
      exact ⟨(n, t), ho, by simp [hl]⟩

theorem mem_liveEntries {s : State} {h : Port} {i : Slot} {n : Nat} {t : Tag} :
    (h, i, n, t) ∈ liveEntries s ↔
      ∃ r, (s.port h).slot i = some r ∧ (n, t) ∈ outstanding r ∧ liveFor s h i n t = true := by
  simp only [liveEntries_eq, List.mem_flatMap, List.mem_finRange, true_and, mem_slotLive]
  constructor
  · rintro ⟨g, j, -, rfl, rfl, hr⟩
    exact hr
  · rintro ⟨r, hr, ho⟩
    exact ⟨h, i, mem_acceptanceOrder.2 (by simp [hr]), rfl, rfl, r, hr, ho⟩

/-- The entries of a record come in list order. -/
theorem outstanding_pairwise (r : ReqRec) : (outstanding r).Pairwise fun a b => a.1 < b.1 := by
  unfold outstanding
  split
  · exact .nil
  · rename_i c _
    refine List.Pairwise.filterMap _ (R := fun a b : Sub × Nat => a.2 < b.2) ?_ ?_
    · rintro ⟨x, k⟩ ⟨y, l⟩ hkl a ha b hb
      have hidx (z : Sub) (j : Nat) (e : Nat × Tag)
          (he : (if z.outcome.isNone then z.tag.map fun t => (j, t) else none) = some e) : e.1 = j := by
        split at he
        · obtain ⟨u, -, rfl⟩ := Option.map_eq_some_iff.1 he; rfl
        · cases he
      rw [hidx x k a ha, hidx y l b hb]
      exact hkl
    · rw [← List.pairwise_map (f := Prod.snd) (R := (· < ·)), List.zipIdx_map_snd]
      exact List.pairwise_lt_range'

/-- Two live entries of one record stand in list order. -/
theorem liveEntries_pairwise (s : State) :
    (liveEntries s).Pairwise fun a b => a.1 = b.1 → a.2.1 = b.2.1 → a.2.2.1 < b.2.2.1 := by
  have hslot (h : Port) (i : Slot) : (slotLive s h i).Pairwise fun a b => a.2.2.1 < b.2.2.1 := by
    unfold slotLive
    split
    · exact .nil
    · refine (outstanding_pairwise _).filterMap _ fun a b hab x hx y hy => ?_
      dsimp only at hx hy
      split at hx <;> split at hy <;> cases hx <;> cases hy
      exact hab
  rw [liveEntries_eq, List.pairwise_flatMap]
  refine ⟨fun h _ => List.pairwise_flatMap.2 ⟨fun i _ => ?_, ?_⟩, ?_⟩
  · exact (hslot h i).imp fun hab _ _ => hab
  · refine (acceptanceOrder_nodup (s.port h)).imp ?_
    rintro i j hij ⟨g, a, n, t⟩ ha ⟨g', b, n', t'⟩ hb - hs
    exact absurd ((mem_slotLive.1 ha).2.1.symm.trans (hs.trans (mem_slotLive.1 hb).2.1)) hij
  · refine (List.nodup_finRange 4).imp ?_
    rintro h h' hne ⟨g, a, n, t⟩ ha ⟨g', b, n', t'⟩ hb hg
    obtain ⟨i, -, ha⟩ := List.mem_flatMap.1 ha
    obtain ⟨j, -, hb⟩ := List.mem_flatMap.1 hb
    exact absurd ((mem_slotLive.1 ha).1.symm.trans (hg.trans (mem_slotLive.1 hb).1)) hne

/-! A record under failure retirements -/

/-- A record after the test of entry to READY (R90, R92). -/
def afterReady (m : ErrorMap) (r : ReqRec) : ReqRec :=
  if r.stage = .awaiting ∧ r.allRetired = true then
    { r with stage := .ready, status := some (responseStatus m r), staging := [], firstFailure := failureAtReady m r }
  else r

/-- A record after its entry `n` retires with outcome `o` (R86 to R92); `retireAt_slot` ties it to the model. -/
def retireRec (m : ErrorMap) (o : SubOutcome) (n : Nat) (q : ReqRec) : ReqRec :=
  match q.cut with
  | none => q
  | some c =>
    match c.subs[n]? with
    | none => q
    | some x =>
      if x.outcome.isSome then q
      else
        let r := { q with cut := some { c with subs := c.subs.modify n fun y => { y with outcome := some o } } }
        afterReady m (if isFailure m o then recordFailure o x.offset r else r)

theorem recordFailure_kind (o : SubOutcome) (a : Nat) (r : ReqRec) : (recordFailure o a r).kind = r.kind := by
  unfold recordFailure
  split
  · rfl
  · split <;> rfl

theorem recordFailure_ready {o : SubOutcome} {a : Nat} {r : ReqRec} (h : (recordFailure o a r).stage = .ready) :
    r.stage = .ready := by
  unfold recordFailure at h
  split at h
  · exact h
  · split at h
    · cases h
    · exact h

theorem afterReady_kind (m : ErrorMap) (r : ReqRec) : (afterReady m r).kind = r.kind := by
  unfold afterReady; split <;> rfl

theorem retireRec_kind (m : ErrorMap) (o : SubOutcome) (n : Nat) (q : ReqRec) : (retireRec m o n q).kind = q.kind := by
  unfold retireRec
  split
  · rfl
  · split
    · rfl
    · split
      · rfl
      · dsimp only
        rw [afterReady_kind]
        split
        · rw [recordFailure_kind]
        · rfl

theorem readyTest_respQ (m : ErrorMap) (i : Slot) (p : PortState) : p.respQ <+: (readyTest m i p).respQ := by
  unfold readyTest
  split
  · exact List.prefix_refl _
  · split
    · rw [enterReady_of_some (slot_setSlot_same ..)]
      exact List.prefix_append _ _
    · exact List.prefix_refl _

/-- A retirement whose entry is not there, or has its outcome, does nothing. -/
theorem retireRec_of_done (m : ErrorMap) (o : SubOutcome) {n : Nat} {q : ReqRec}
    (h : ∀ c x, q.cut = some c → c.subs[n]? = some x → x.outcome ≠ none) : retireRec m o n q = q := by
  unfold retireRec
  split
  · rfl
  · split
    · rfl
    · rw [if_pos (Option.isSome_iff_ne_none.2 (h _ _ ‹_› ‹_›))]

/-- What a retirement does at its port, through its record: nothing, or a rewritten record with the two tests after it. -/
theorem retireAt_cases (m : ErrorMap) {i : Slot} (n : Nat) (o : SubOutcome) {p : PortState} {q : ReqRec}
    (hq : p.slot i = some q) :
    (retireRec m o n q = q ∧ retireAt m i n o p = p) ∨
      ∃ r, retireRec m o n q = afterReady m r ∧ (r.stage = .ready → q.stage = .ready) ∧
        retireAt m i n o p = fenceTest (readyTest m i (p.setSlot i (some r))) := by
  cases hc : q.cut with
  | none => exact .inl ⟨by simp [retireRec, hc], by simp [retireAt, hq, hc]⟩
  | some c =>
    cases hx : c.subs[n]? with
    | none => exact .inl ⟨by simp [retireRec, hc, hx], by simp [retireAt, hq, hc, hx]⟩
    | some x =>
      by_cases ho : x.outcome.isSome = true
      · exact .inl ⟨by simp [retireRec, hc, hx, ho], by simp [retireAt, hq, hc, hx, ho]⟩
      · refine .inr ⟨_, (by simp only [retireRec, hc, hx, if_neg ho]; rfl), fun h => ?_,
          (by simp only [retireAt, hq, hc, hx, if_neg ho])⟩
        split at h
        · exact (recordFailure_ready h :)
        · exact h

/-- What a retirement does to its slot, to the other slots, and to the response queue, where the records are no FENCE. -/
theorem retireAt_slot (m : ErrorMap) {i : Slot} (n : Nat) (o : SubOutcome) {p : PortState} {q : ReqRec}
    (hq : p.slot i = some q) (hk : q.kind ≠ .fence) :
    (retireAt m i n o p).slot i = some (retireRec m o n q) ∧
      ((retireRec m o n q).stage = .ready → q.stage ≠ .ready → i ∈ (retireAt m i n o p).respQ) := by
  rcases retireAt_cases m n o hq with ⟨hr, hp⟩ | ⟨r, hr, hs, hp⟩
  · rw [hr, hp]
    exact ⟨hq, fun h1 h2 => absurd h1 h2⟩
  · have hrk : (afterReady m r).kind ≠ .fence := by rw [← hr, retireRec_kind]; exact hk
    obtain ⟨h1, -, h3⟩ := readyTest_spec m (slot_setSlot_same p i (some r))
    obtain ⟨k1, k2⟩ := fenceTest_keeps (readyTest m i (p.setSlot i (some r)))
    rw [hr, hp]
    refine ⟨k1 i _ h1 hrk, fun h4 h5 => ?_⟩
    unfold afterReady at h4
    split at h4
    · obtain ⟨ha, hall⟩ := ‹_ ∧ _›
      exact k2.subset (h3 ha hall)
    · exact absurd (hs h4) h5

/-- A retirement leaves every other record that is no FENCE, and only adds to the response queue. -/
theorem retireAt_frame (m : ErrorMap) (i : Slot) (n : Nat) (o : SubOutcome) (p : PortState) :
    (∀ j r, j ≠ i → p.slot j = some r → r.kind ≠ .fence → (retireAt m i n o p).slot j = some r) ∧
      p.respQ <+: (retireAt m i n o p).respQ := by
  cases hq : p.slot i with
  | none => simp only [retireAt, hq]; exact ⟨fun _ _ _ h _ => h, List.prefix_refl _⟩
  | some q =>
    rcases retireAt_cases m n o hq with ⟨-, hp⟩ | ⟨r, -, -, hp⟩
    · rw [hp]
      exact ⟨fun _ _ _ h _ => h, List.prefix_refl _⟩
    · obtain ⟨-, h2, -⟩ := readyTest_spec m (slot_setSlot_same p i (some r))
      obtain ⟨k1, k2⟩ := fenceTest_keeps (readyTest m i (p.setSlot i (some r)))
      rw [hp]
      refine ⟨fun j x hj hx hk => k1 j x ?_ hk, (readyTest_respQ m i (p.setSlot i (some r))).trans k2⟩
      rw [h2 j hj, slot_setSlot_ne _ _ hj, hx]

/-! A record under a list of failure retirements -/

/-- The entries of a record's list that retire, where the event's subrequests are `es`. -/
def entriesAt (h : Port) (i : Slot) (es : List (Port × Slot × Nat × Tag)) : List Nat :=
  es.filterMap fun e => if e.1 = h ∧ e.2.1 = i then some e.2.2.1 else none

theorem mem_entriesAt {h : Port} {i : Slot} {n : Nat} {es : List (Port × Slot × Nat × Tag)} :
    n ∈ entriesAt h i es ↔ ∃ t, (h, i, n, t) ∈ es := by
  simp only [entriesAt, List.mem_filterMap, Prod.exists]
  constructor
  · rintro ⟨g, j, k, t, hm, he⟩
    split at he
    · obtain ⟨rfl, rfl⟩ := ‹_ ∧ _›
      cases he
      exact ⟨t, hm⟩
    · cases he
  · rintro ⟨t, hm⟩
    exact ⟨h, i, n, t, hm, by simp⟩

theorem entriesAt_pairwise {es : List (Port × Slot × Nat × Tag)}
    (hes : es.Pairwise fun a b => a.1 = b.1 → a.2.1 = b.2.1 → a.2.2.1 < b.2.2.1) (h : Port) (i : Slot) :
    (entriesAt h i es).Pairwise (· < ·) := by
  refine hes.filterMap _ ?_
  rintro ⟨g, j, k, t⟩ ⟨g', j', k', t'⟩ hR x hx y hy
  dsimp only at hx hy hR
  split at hx <;> split at hy <;> cases hx <;> cases hy
  simp_all

/-- What the retirements of one event make of one record: its own, in order. -/
theorem retireAll_slot (o : SubOutcome) (es : List (Port × Slot × Nat × Tag)) {s : State} {h : Port} {i : Slot}
    {q : ReqRec} (hq : (s.port h).slot i = some q) (hk : q.kind ≠ .fence) :
    ((retireAll o es s).port h).slot i =
        some ((entriesAt h i es).foldl (fun r n => retireRec (s.portPolicy h).errorMap o n r) q) ∧
      (((entriesAt h i es).foldl (fun r n => retireRec (s.portPolicy h).errorMap o n r) q).stage = .ready →
        q.stage = .ready ∨ i ∈ ((retireAll o es s).port h).respQ) ∧
      (s.port h).respQ <+: ((retireAll o es s).port h).respQ := by
  induction es generalizing s q with
  | nil => exact ⟨hq, .inl, List.prefix_refl _⟩
  | cons e es ih =>
    obtain ⟨g, j, n, t⟩ := e
    have hpol : (retire g j n o s).portPolicy h = s.portPolicy h := by simp [State.portPolicy]
    have hcons : retireAll o ((g, j, n, t) :: es) s = retireAll o es (retire g j n o s) := rfl
    rw [hcons]
    by_cases hgj : g = h ∧ j = i
    · obtain ⟨rfl, rfl⟩ := hgj
      have hport : (retire g j n o s).port g = retireAt (s.portPolicy g).errorMap j n o (s.port g) := by
        rw [retire_port, if_pos rfl]
      obtain ⟨h1, h2⟩ := retireAt_slot (s.portPolicy g).errorMap n o hq hk
      have h3 := (retireAt_frame (s.portPolicy g).errorMap j n o (s.port g)).2
      obtain ⟨i1, i2, i3⟩ := ih (hport ▸ h1) (by rw [retireRec_kind]; exact hk)
      have hent : entriesAt g j ((g, j, n, t) :: es) = n :: entriesAt g j es := by simp [entriesAt]
      rw [hpol] at i1 i2
      rw [hport] at i3
      rw [hent]
      refine ⟨i1, fun hr => ?_, h3.trans i3⟩
      rcases i2 hr with hr' | hr'
      · by_cases hqr : q.stage = .ready
        · exact .inl hqr
        · exact .inr (i3.subset (h2 hr' hqr))
      · exact .inr hr'
    · have hent : entriesAt h i ((g, j, n, t) :: es) = entriesAt h i es := by simp [entriesAt, hgj]
      have hkeep : ((retire g j n o s).port h).slot i = some q ∧ (s.port h).respQ <+: ((retire g j n o s).port h).respQ := by
        rw [retire_port]
        split
        · subst h
          obtain ⟨f1, f2⟩ := retireAt_frame (s.portPolicy g).errorMap j n o (s.port g)
          exact ⟨f1 i q (fun e => hgj ⟨rfl, e.symm⟩) hq hk, f2⟩
        · exact ⟨hq, List.prefix_refl _⟩
      obtain ⟨i1, i2, i3⟩ := ih hkeep.1 hk
      rw [hpol] at i1 i2
      rw [hent]
      exact ⟨i1, i2, hkeep.2.trans i3⟩

theorem afterReady_cut (m : ErrorMap) (r : ReqRec) : (afterReady m r).cut = r.cut := by
  unfold afterReady; split <;> rfl

theorem length_cancelFrom (k : Nat) (l : List Sub) : (cancelFrom k l).length = l.length := by
  induction l generalizing k with
  | nil => cases k <;> rfl
  | cons x l ih => cases k <;> simp [cancelFrom, ih]

/-- A failure at a record: where it is the first, it is recorded, and a record in ISSUING has its open entries cancelled
from the next-to-issue index on and moves to AWAITING (R87, R88). -/
theorem recordFailure_spec (o : SubOutcome) (a : Nat) {r : ReqRec} {c : Cut}
    (hs : r.stage = .awaiting ∨ r.stage = .issuing) (hc : r.cut = some c) :
    ∃ d : Cut, (recordFailure o a r).cut = some d ∧ d.subs.length = c.subs.length ∧
      (recordFailure o a r).firstFailure = some (r.firstFailure.getD (o, a)) ∧
      (r.firstFailure = none → (recordFailure o a r).stage = .awaiting) ∧
      (r.firstFailure ≠ none → (recordFailure o a r).stage = r.stage ∧ d.next = c.next) ∧
      ∀ (k : Nat) (y : Sub), c.subs[k]? = some y → d.subs[k]? = some
        (if r.firstFailure = none ∧ r.stage = .issuing ∧ c.next ≤ k ∧ y.outcome = none
          then { y with outcome := some .cancelled } else y) := by
  unfold recordFailure
  cases hff : r.firstFailure with
  | some f => exact ⟨c, by simp [hc], rfl, by simp [hff], by simp, by simp, fun k y hy => by simp [hy]⟩
  | none =>
    rcases hs with hs | hs
    · exact ⟨c, by simp [hs, hc], rfl, by simp [hs], by simp [hs], by simp, fun k y hy => by simp [hy, hs]⟩
    · refine ⟨{ c with subs := cancelFrom c.next c.subs, next := c.subs.length }, by simp [hs, hc],
        length_cancelFrom .., by simp [hs, hc], by simp [hs, hc], by simp, fun k y hy => ?_⟩
      simp [getElem?_cancelFrom, hy, hs]

/-- A failure that retires an open entry of a record in AWAITING or ISSUING, before the test of entry to READY: the outcome
in the entry, and where it is the record's first failure, the failure, the cancellations and AWAITING (R86 to R88). -/
theorem retireRec_failure {m : ErrorMap} {o : SubOutcome} {n : Nat} {q : ReqRec} {c : Cut} {x : Sub}
    (hf : isFailure m o = true) (hs : q.stage = .awaiting ∨ q.stage = .issuing) (hc : q.cut = some c)
    (hx : c.subs[n]? = some x) (hn : x.outcome = none) :
    ∃ (r : ReqRec) (d : Cut), retireRec m o n q = afterReady m r ∧ r.cut = some d ∧
      d.subs.length = c.subs.length ∧
      r.firstFailure = some (q.firstFailure.getD (o, x.offset)) ∧
      (q.firstFailure = none → r.stage = .awaiting) ∧ (q.firstFailure ≠ none → r.stage = q.stage ∧ d.next = c.next) ∧
      ∀ (k : Nat) (y : Sub), c.subs[k]? = some y → d.subs[k]? = some
        (if k = n then { y with outcome := some o }
         else if q.firstFailure = none ∧ q.stage = .issuing ∧ c.next ≤ k ∧ y.outcome = none
           then { y with outcome := some .cancelled } else y) := by
  have hrec : retireRec m o n q = afterReady m (recordFailure o x.offset
      { q with cut := some { c with subs := c.subs.modify n fun y => { y with outcome := some o } } }) := by
    simp [retireRec, hc, hx, hn, hf]
  obtain ⟨d, hd, hlen, hff, h1, h2, hget⟩ := recordFailure_spec o x.offset (r :=
    { q with cut := some { c with subs := c.subs.modify n fun y => { y with outcome := some o } } }) hs rfl
  refine ⟨_, d, hrec, hd, by simpa using hlen, hff, h1, h2, fun k y hy => ?_⟩
  by_cases hkn : k = n
  · subst hkn
    simpa [List.getElem?_modify, hy] using hget k { y with outcome := some o }
  · simpa [List.getElem?_modify, hy, hkn, Ne.symm hkn] using hget k y

/-- A record whose first failure is `(o, a)`: in AWAITING with an entry still open, or in READY with the status of `o`. -/
structure SettledBy (m : ErrorMap) (o : SubOutcome) (a : Nat) (r : ReqRec) : Prop where
  failure : r.firstFailure = some (o, a)
  stage : r.stage = .awaiting ∧ r.allRetired = false ∨
    r.stage = .ready ∧ r.allRetired = true ∧ r.status = some (m.entry o) ∧ r.staging = []

theorem settledBy_afterReady {m : ErrorMap} {o : SubOutcome} {a : Nat} {r : ReqRec} (hp : o ≠ .poisoned)
    (hf : r.firstFailure = some (o, a)) (hs : r.stage = .awaiting) : SettledBy m o a (afterReady m r) := by
  have hst : responseStatus m r = m.entry o := by
    cases o <;> simp_all [responseStatus]
  unfold afterReady
  cases hall : r.allRetired with
  | false => simp only [hs, true_and, Bool.false_eq_true, if_false]; exact ⟨hf, .inl ⟨hs, hall⟩⟩
  | true =>
    simp only [hs, true_and, if_true]
    exact ⟨by simp [failureAtReady, hf], .inr ⟨rfl, hall, by rw [hst], rfl⟩⟩

/-- A failure keeps the number of a record's entries, and every outcome already written. -/
theorem recordFailure_outcomes (o : SubOutcome) (a : Nat) {r : ReqRec} {c : Cut} (hc : r.cut = some c) :
    ∃ d, (recordFailure o a r).cut = some d ∧ d.subs.length = c.subs.length ∧
      ∀ (k : Nat) (y : Sub), c.subs[k]? = some y → y.outcome ≠ none → d.subs[k]? = some y := by
  unfold recordFailure
  split
  · exact ⟨c, hc, rfl, fun _ _ h _ => h⟩
  · split
    · rename_i c' _ hc'
      obtain rfl : c = c' := Option.some.inj (hc.symm.trans hc')
      exact ⟨_, rfl, length_cancelFrom .., fun k y hy ho => by simp [getElem?_cancelFrom, hy, ho]⟩
    · exact ⟨c, hc, rfl, fun _ _ h _ => h⟩

/-- A retirement keeps the number of a record's entries, and every outcome already written. -/
theorem retireRec_outcomes (m : ErrorMap) (o : SubOutcome) (n : Nat) {q : ReqRec} {c : Cut} (hc : q.cut = some c) :
    ∃ d, (retireRec m o n q).cut = some d ∧ d.subs.length = c.subs.length ∧
      ∀ (k : Nat) (y : Sub), c.subs[k]? = some y → y.outcome ≠ none → d.subs[k]? = some y := by
  by_cases hdone : ∀ c x, q.cut = some c → c.subs[n]? = some x → x.outcome ≠ none
  · rw [retireRec_of_done m o hdone]
    exact ⟨c, hc, rfl, fun _ _ h _ => h⟩
  · push Not at hdone
    obtain ⟨c', x, hc', hx, hn⟩ := hdone
    obtain rfl : c = c' := Option.some.inj (hc.symm.trans hc')
    have hopen (k : Nat) (y : Sub) (hy : c.subs[k]? = some y) (ho : y.outcome ≠ none) :
        (c.subs.modify n fun y => { y with outcome := some o })[k]? = some y := by
      have hkn : n ≠ k := by rintro rfl; exact ho (by rw [← Option.some.inj (hx.symm.trans hy), hn])
      simp [hy, hkn]
    unfold retireRec
    simp only [hc, hx, hn, Option.isSome_none, Bool.false_eq_true, if_false, afterReady_cut]
    split
    · obtain ⟨d, hd, hlen, hkeep⟩ := recordFailure_outcomes o x.offset (r :=
        { q with cut := some { c with subs := c.subs.modify n fun y => { y with outcome := some o } } }) rfl
      exact ⟨d, hd, by simpa using hlen, fun k y hy ho => hkeep k y (hopen k y hy ho) ho⟩
    · exact ⟨_, rfl, by simp, hopen⟩

theorem foldl_retireRec_outcomes (m : ErrorMap) (o : SubOutcome) (ns : List Nat) {q : ReqRec} {c : Cut}
    (hc : q.cut = some c) :
    ∃ d, (ns.foldl (fun r n => retireRec m o n r) q).cut = some d ∧ d.subs.length = c.subs.length ∧
      ∀ (k : Nat) (y : Sub), c.subs[k]? = some y → y.outcome ≠ none → d.subs[k]? = some y := by
  induction ns generalizing q c with
  | nil => exact ⟨c, hc, rfl, fun _ _ h _ => h⟩
  | cons n ns ih =>
    obtain ⟨d, hd, hlen, hkeep⟩ := retireRec_outcomes m o n hc
    obtain ⟨e, he, hlen', hkeep'⟩ := ih hd
    exact ⟨e, he, hlen'.trans hlen, fun k y hy ho => hkeep' k y (hkeep k y hy ho) ho⟩

theorem allRetired_iff {r : ReqRec} {c : Cut} (hc : r.cut = some c) :
    r.allRetired = true ↔ ∀ (k : Nat) (y : Sub), c.subs[k]? = some y → y.outcome ≠ none := by
  simp only [ReqRec.allRetired, hc, List.all_eq_true, Option.isSome_iff_ne_none]
  constructor
  · exact fun h k y hy => h y (List.mem_of_getElem? hy)
  · intro h y hy
    obtain ⟨k, hk⟩ := List.getElem?_of_mem hy
    exact h k y hk

theorem recordFailure_queued {o : SubOutcome} {a : Nat} {r : ReqRec} (h : (recordFailure o a r).stage = .queued) :
    r.stage = .queued := by
  unfold recordFailure at h
  split at h
  · exact h
  · split at h
    · cases h
    · exact h

theorem afterReady_queued {m : ErrorMap} {r : ReqRec} (h : (afterReady m r).stage = .queued) : r.stage = .queued := by
  unfold afterReady at h
  split at h
  · cases h
  · exact h

/-- A retirement takes no record back to QUEUED. -/
theorem retireRec_queued {m : ErrorMap} {o : SubOutcome} {n : Nat} {q : ReqRec}
    (h : (retireRec m o n q).stage = .queued) : q.stage = .queued := by
  unfold retireRec at h
  split at h
  · exact h
  · split at h
    · exact h
    · split at h
      · exact h
      · have h2 := afterReady_queued h
        split at h2
        · exact (recordFailure_queued h2 :)
        · exact h2

theorem foldl_retireRec_kind_stage (m : ErrorMap) (o : SubOutcome) (ns : List Nat) {q : ReqRec}
    (hs : q.stage ≠ .queued) :
    (ns.foldl (fun r n => retireRec m o n r) q).kind = q.kind ∧
      (ns.foldl (fun r n => retireRec m o n r) q).stage ≠ .queued :=
  foldl_keeps (P := fun r : ReqRec => r.kind = q.kind ∧ r.stage ≠ .queued)
    (fun _ _ h => ⟨(retireRec_kind ..).trans h.1, fun e => h.2 (retireRec_queued e)⟩) ns ⟨rfl, hs⟩

section Failure

variable {m : ErrorMap} {o : SubOutcome} (hf : isFailure m o = true) (hp : o ≠ .poisoned)

include hf hp

/-- The first failure of a record settles it. -/
theorem settledBy_first {n : Nat} {q : ReqRec} {c : Cut} {x : Sub} (hs : q.stage = .awaiting ∨ q.stage = .issuing)
    (hff : q.firstFailure = none) (hc : q.cut = some c) (hx : c.subs[n]? = some x) (hn : x.outcome = none) :
    SettledBy m o x.offset (retireRec m o n q) := by
  obtain ⟨r, d, hr, -, -, hrf, hst, -, -⟩ := retireRec_failure hf hs hc hx hn
  rw [hr]
  exact settledBy_afterReady hp (by rw [hrf, hff]; rfl) (hst hff)

/-- A settled record stays settled by its first failure. -/
theorem settledBy_retireRec {a : Nat} {r : ReqRec} (hs : SettledBy m o a r) (n : Nat) :
    SettledBy m o a (retireRec m o n r) := by
  by_cases hdone : ∀ c x, r.cut = some c → c.subs[n]? = some x → x.outcome ≠ none
  · rwa [retireRec_of_done m o hdone]
  · push Not at hdone
    obtain ⟨c, x, hc, hx, hn⟩ := hdone
    obtain ⟨hff, hst⟩ := hs
    rcases hst with ⟨hst, -⟩ | ⟨-, hall, -⟩
    · obtain ⟨r', d, hr, -, -, hrf, -, hstage, -⟩ := retireRec_failure hf (.inl hst) hc hx hn
      rw [hr]
      exact settledBy_afterReady hp (by rw [hrf, hff]; rfl) ((hstage (by simp [hff])).1.trans hst)
    · exact absurd hn ((allRetired_iff hc).1 hall n x hx)

omit hp in
/-- While another entry retires, an open entry that no cancellation reaches stays as it is, and so its record is not yet
READY. -/
theorem retireRec_other {k n : Nat} {q : ReqRec} {c : Cut} {x : Sub} (hkn : n ≠ k)
    (hs : q.stage = .awaiting ∨ q.stage = .issuing ∧ n < c.next) (hc : q.cut = some c) (hx : c.subs[n]? = some x)
    (hn : x.outcome = none) :
    ∃ d, (retireRec m o k q).cut = some d ∧ d.subs[n]? = some x ∧
      ((retireRec m o k q).stage = .awaiting ∨ (retireRec m o k q).stage = .issuing ∧ n < d.next) := by
  by_cases hdone : ∀ c x, q.cut = some c → c.subs[k]? = some x → x.outcome ≠ none
  · rw [retireRec_of_done m o hdone]
    exact ⟨c, hc, hx, hs⟩
  · push Not at hdone
    obtain ⟨c', y, hc', hy, hyn⟩ := hdone
    obtain rfl : c = c' := Option.some.inj (hc.symm.trans hc')
    obtain ⟨r, d, hr, hd, -, -, hst1, hst2, hget⟩ := retireRec_failure hf (hs.imp_right And.left) hc hy hyn
    have hdx : d.subs[n]? = some x := by
      rw [hget n x hx, if_neg hkn, if_neg]
      rintro ⟨-, hi, hle, -⟩
      rcases hs with hs | ⟨-, hlt⟩
      · rw [hs] at hi; cases hi
      · omega
    have hnot : r.allRetired ≠ true := fun hall => (allRetired_iff hd).1 hall n x hdx hn
    have hr' : retireRec m o k q = r := by rw [hr, afterReady, if_neg fun h => hnot h.2]
    rw [hr']
    refine ⟨d, hd, hdx, ?_⟩
    by_cases hff : q.firstFailure = none
    · exact .inl (hst1 hff)
    · obtain ⟨h1, h2⟩ := hst2 hff
      rw [h1, h2]
      exact hs

omit hp in
/-- An open entry that no cancellation reaches takes the outcome, wherever it stands in the event's order. -/
theorem foldl_retireRec_entry {n : Nat} {x : Sub} (ns : List Nat) {q : ReqRec} {c : Cut} (hmem : n ∈ ns)
    (hs : q.stage = .awaiting ∨ q.stage = .issuing ∧ n < c.next) (hc : q.cut = some c) (hx : c.subs[n]? = some x)
    (hn : x.outcome = none) :
    ∃ d, (ns.foldl (fun r n => retireRec m o n r) q).cut = some d ∧ d.subs[n]? = some { x with outcome := some o } := by
  induction ns generalizing q c with
  | nil => cases hmem
  | cons k ns ih =>
    by_cases hkn : n = k
    · subst hkn
      obtain ⟨r, d, hr, hd, -, -, -, -, hget⟩ := retireRec_failure hf (hs.imp_right And.left) hc hx hn
      have hcut : (retireRec m o n q).cut = some d := by rw [hr, afterReady_cut, hd]
      obtain ⟨e, he, -, hkeep⟩ := foldl_retireRec_outcomes m o ns hcut
      exact ⟨e, he, hkeep n _ (by simpa using hget n x hx) (by simp)⟩
    · obtain ⟨d, hd, hdx, hs'⟩ := retireRec_other hf hkn hs hc hx hn
      exact ih ((List.mem_cons.1 hmem).resolve_left hkn) hs' hd hdx

/-- What the failure retirements of a record's entries `ns`, each open, make of a record with no first failure: the first of
them is its first failure, and it is READY where no entry is left open (R87, R88, R92). -/
theorem foldl_retireRec_settles {ns : List Nat} {k : Nat} {q : ReqRec} {c : Cut} {y : Sub}
    (hs : q.stage = .awaiting ∨ q.stage = .issuing) (hff : q.firstFailure = none) (hc : q.cut = some c)
    (hy : c.subs[k]? = some y) (hyn : y.outcome = none) :
    SettledBy m o y.offset ((k :: ns).foldl (fun r n => retireRec m o n r) q) ∧
      ∃ d, ((k :: ns).foldl (fun r n => retireRec m o n r) q).cut = some d ∧ d.subs.length = c.subs.length ∧
        ∀ (j : Nat) (z : Sub), c.subs[j]? = some z → q.stage = .issuing → c.next ≤ j →
          ∃ w, d.subs[j]? = some w ∧ w.outcome ≠ none := by
  refine ⟨foldl_keeps (P := SettledBy m o y.offset) (fun _ n h => settledBy_retireRec hf hp h n) ns
    (settledBy_first hf hp hs hff hc hy hyn), ?_⟩
  obtain ⟨r, d, hr, hd, hlen, -, -, -, hget⟩ := retireRec_failure hf hs hc hy hyn
  have hcut : (retireRec m o k q).cut = some d := by rw [hr, afterReady_cut, hd]
  obtain ⟨e, he, hlen', hkeep⟩ := foldl_retireRec_outcomes m o ns hcut
  refine ⟨e, he, hlen'.trans hlen, fun j z hz hi hle => ⟨_, hkeep j _ (hget j z hz) ?_, ?_⟩⟩ <;>
  · split
    · simp
    · split
      · simp
      · simp_all

/-- The same of the event's entries `ns` in list order: the first failure is at the lowest of them, and the record is READY
with the map's entry where every other open entry is cancelled. -/
theorem foldl_retireRec_first {ns : List Nat} {n : Nat} {q : ReqRec} {c : Cut} {x : Sub}
    (hopen : ∀ k ∈ ns, ∃ y, c.subs[k]? = some y ∧ y.outcome = none) (hsorted : ns.Pairwise (· < ·)) (hmem : n ∈ ns)
    (hs : q.stage = .awaiting ∨ q.stage = .issuing) (hff : q.firstFailure = none) (hc : q.cut = some c)
    (hx : c.subs[n]? = some x) :
    (ns.foldl (fun r n => retireRec m o n r) q).stage ≠ .issuing ∧
      ((∀ k ∈ ns, n ≤ k) → (ns.foldl (fun r n => retireRec m o n r) q).firstFailure = some (o, x.offset)) ∧
      ((∀ (k : Nat) (y : Sub), c.subs[k]? = some y → y.outcome = none →
          k ∈ ns ∨ q.stage = .issuing ∧ c.next ≤ k) →
        (ns.foldl (fun r n => retireRec m o n r) q).stage = .ready ∧
          (ns.foldl (fun r n => retireRec m o n r) q).status = some (m.entry o) ∧
          (ns.foldl (fun r n => retireRec m o n r) q).staging = []) := by
  obtain ⟨k, rest, rfl⟩ := List.exists_cons_of_ne_nil (List.ne_nil_of_mem hmem)
  obtain ⟨y, hy, hyn⟩ := hopen k (by simp)
  obtain ⟨⟨hfail, hst⟩, d, hd, hlen, hcancel⟩ := foldl_retireRec_settles hf hp (ns := rest) hs hff hc hy hyn
  refine ⟨?_, fun hfirst => ?_, fun hall => ?_⟩
  · rcases hst with ⟨e, -⟩ | ⟨e, -⟩ <;> (rw [e]; simp)
  · have hnk : n = k := by
      rcases List.mem_cons.1 hmem with e | hrest
      · exact e
      · have := (List.pairwise_cons.1 hsorted).1 n hrest
        have := hfirst k (by simp)
        omega
    subst hnk
    rw [hfail, Option.some.inj (hy.symm.trans hx)]
  · have hdone : ReqRec.allRetired _ = true := (allRetired_iff hd).2 fun j w hw => by
      obtain ⟨z, hz⟩ : ∃ z, c.subs[j]? = some z :=
        ⟨_, List.getElem?_eq_getElem (hlen ▸ (List.getElem?_eq_some_iff.1 hw).1)⟩
      by_cases hzn : z.outcome = none
      · by_cases hcan : q.stage = .issuing ∧ c.next ≤ j
        · obtain ⟨w', hw', ho⟩ := hcancel j z hz hcan.1 hcan.2
          rwa [Option.some.inj (hw.symm.trans hw')]
        · obtain ⟨d', hd', hdj⟩ := foldl_retireRec_entry hf (k :: rest) ((hall j z hz hzn).resolve_right hcan)
            (hs.imp_right fun hi => ⟨hi, Nat.lt_of_not_le fun hle => hcan ⟨hi, hle⟩⟩) hc hz hzn
          obtain rfl : d = d' := Option.some.inj (hd.symm.trans hd')
          rw [Option.some.inj (hw.symm.trans hdj)]
          simp
      · obtain ⟨d', hd', -, hkeep⟩ := foldl_retireRec_outcomes m o (k :: rest) hc
        obtain rfl : d = d' := Option.some.inj (hd.symm.trans hd')
        rwa [Option.some.inj (hw.symm.trans (hkeep j z hz hzn))]
    obtain ⟨hready, -, hstatus, hstaging⟩ := hst.resolve_left fun h => Bool.false_ne_true (h.2.symm.trans hdone)
    exact ⟨hready, hstatus, hstaging⟩

end Failure

/-- The entries of a record that retire with the due tags are its open entries with a live due tag. -/
theorem mem_entriesAt_due {s : State} {due : Tag → Bool} {h : Port} {i : Slot} {q : ReqRec} {c : Cut}
    (hq : (s.port h).slot i = some q) (hc : q.cut = some c) (k : Nat) :
    k ∈ entriesAt h i ((liveEntries s).filter fun e => due e.2.2.2) ↔
      ∃ y, c.subs[k]? = some y ∧ y.outcome = none ∧ ∃ u, y.tag = some u ∧ liveFor s h i k u = true ∧ due u = true := by
  simp only [mem_entriesAt, List.mem_filter, mem_liveEntries, mem_outstanding, hq, hc, Option.some.injEq,
    exists_eq_left']
  constructor
  · rintro ⟨u, ⟨⟨c', y, rfl, hy, hyn, hyu⟩, hl⟩, hd⟩
    exact ⟨y, hy, hyn, u, hyu, hl, hd⟩
  · rintro ⟨y, hy, hyn, u, hyu, hl, hd⟩
    exact ⟨u, ⟨⟨c, y, rfl, hy, hyn, hyu⟩, hl⟩, hd⟩

/-- The failure retirements of one event, over the subrequests whose tags are due, do what DueRetired says; what follows
them may change no record that has left QUEUED, but for a FENCE, and takes nothing from a response queue. -/
theorem retireAll_dueRetired {o : SubOutcome} (hf : ∀ m, isFailure m o = true) (hp : o ≠ .poisoned) (due : Tag → Bool)
    {s s1 t : State} (hports : s1.ports = s.ports) (hpol : s1.policy = s.policy)
    (hslot : ∀ h i q, ((retireAll o ((liveEntries s).filter fun e => due e.2.2.2) s1).port h).slot i = some q →
      q.kind ≠ .fence → q.stage ≠ .queued → (t.port h).slot i = some q)
    (hresp : ∀ h, ((retireAll o ((liveEntries s).filter fun e => due e.2.2.2) s1).port h).respQ ⊆ (t.port h).respQ) :
    DueRetired o due s t := by
  intro h i q c n x g hq hk hs hc hx hn hxg hlive hdue
  have hkf : q.kind ≠ .fence := by rcases hk with e | e <;> simp [e]
  have hsa : q.stage = .awaiting ∨ q.stage = .issuing := hs.imp_right And.left
  have hsq : q.stage ≠ .queued := by rcases hsa with e | e <;> simp [e]
  have hsr : q.stage ≠ .ready := by rcases hsa with e | e <;> simp [e]
  have hq1 : (s1.port h).slot i = some q := by simpa [State.port, hports] using hq
  obtain ⟨h1, h2, -⟩ := retireAll_slot o ((liveEntries s).filter fun e => due e.2.2.2) hq1 hkf
  have hmem := mem_entriesAt_due (due := due) hq hc
  have hsorted := entriesAt_pairwise ((liveEntries_pairwise s).filter fun e => due e.2.2.2) h i
  generalize entriesAt h i ((liveEntries s).filter fun e => due e.2.2.2) = ns at h1 h2 hmem hsorted
  rw [show s1.portPolicy h = s.portPolicy h by simp [State.portPolicy, hpol]] at h1 h2
  have hfm := hf (s.portPolicy h).errorMap
  have hnns : n ∈ ns := (hmem n).2 ⟨x, hx, hn, g, hxg, hlive, hdue⟩
  obtain ⟨d, hd, hdx⟩ := foldl_retireRec_entry hfm ns hnns hs hc hx hn
  obtain ⟨hkind, hstage⟩ := foldl_retireRec_kind_stage (s.portPolicy h).errorMap o ns hsq
  refine ⟨_, d, hslot h i _ h1 (hkind ▸ hkf) hstage, hd, hdx, fun hff => ?_⟩
  obtain ⟨hni, hfirst, hready⟩ := foldl_retireRec_first hfm hp
    (fun k hk => ((hmem k).1 hk).imp fun _ hy => ⟨hy.1, hy.2.1⟩) hsorted hnns hsa hff hc hx
  refine ⟨hni, fun hlow => hfirst fun k hk => ?_, fun hall => ?_⟩
  · obtain ⟨y, hy, hyn, u, hyu, hl, hd⟩ := (hmem k).1 hk
    refine Nat.le_of_not_lt fun hlt => ?_
    rw [hlow k y u hlt hy hyn hyu hl] at hd
    cases hd
  · obtain ⟨hst, hstatus, hstaging⟩ := hready fun k y hy hyn =>
      (hall k y hy hyn).imp_left fun ⟨u, hu⟩ => (hmem k).2 ⟨y, hy, hyn, u, hu⟩
    exact ⟨hst, hstatus, hstaging, hresp h ((h2 hst).resolve_left hsr)⟩

end Sys2Proof.Machine
end

section
/-! SUPPORT. What the deadline expiries of one tick do to the tags, to the retry queue and to the log (R99, R101). -/

namespace Sys2Proof.Machine

/-! What a report leaves of a port -/

@[simp] theorem report_slots (p : PortState) : (report p).slots = p.slots :=
  (congrArg PortState.slots (report_frame p) :)
@[simp] theorem report_respQ (p : PortState) : (report p).respQ = p.respQ :=
  (congrArg PortState.respQ (report_frame p) :)
@[simp] theorem report_link (p : PortState) : (report p).link = p.link := (congrArg PortState.link (report_frame p) :)
@[simp] theorem report_noticePending (p : PortState) : (report p).noticePending = p.noticePending :=
  (congrArg PortState.noticePending (report_frame p) :)
@[simp] theorem report_slot (p : PortState) (i : Slot) : (report p).slot i = p.slot i := by simp [PortState.slot]

/-! Entries appended in order (R164, R167) -/

theorem loggedInOrder_of_log_eq {s t : State} (h : t.log = s.log) : LoggedInOrder s t [] := by
  intro hlen
  rw [h]
  simp [Nat.sub_eq_zero_of_le hlen]

theorem loggedInOrder_appendLog (e : LogEntry) (s : State) : LoggedInOrder s (appendLog e s) [e] := by
  intro hlen
  rw [appendLog_log]
  refine ⟨?_, rfl⟩
  dsimp only
  split
  · have h0 : s.log.records.length + [e].length - 32 = 0 := by simp; omega
    rw [h0]
    simp
  · have h1 : s.log.records.length + [e].length - 32 = 1 := by simp; omega
    rw [h1, List.drop_append_of_le_length (by simp; omega)]
    simp

theorem LoggedInOrder.trans {s t u : State} {es fs : List LogEntry} (h1 : LoggedInOrder s t es)
    (h2 : LoggedInOrder t u fs) : LoggedInOrder s u (es ++ fs) := by
  intro hlen
  obtain ⟨ht, htn⟩ := h1 hlen
  have htl : t.log.records.length = min 32 (s.log.records.length + es.length) := by
    have := congrArg List.length ht
    simp only [List.length_map, List.length_drop, List.length_append] at this
    omega
  obtain ⟨hu, hun⟩ := h2 (by omega)
  refine ⟨?_, ?_⟩
  · rw [hu, ht, ← List.append_assoc, ← List.drop_append_of_le_length (by simp), List.drop_drop]
    congr 1
    simp only [List.length_append, htl]
    omega
  · rw [hun, htn, List.length_append, BitVec.ofNat_add, BitVec.add_assoc]

/-! One expired deadline -/

/-- A tag record after its deadline is reached: FREE from BACKOFF, and from ISSUED or FILLING LAPSED, or FREE where the
quarantine period is 0 (R13, R14, R106). -/
def expiredRec (period : Nat) (now : Tick) : Option TagRec → Option TagRec
  | none => none
  | some r =>
    match r.phase with
    | .lapsed _ => some r
    | .backoff _ _ => none
    | _ => if period = 0 then none else some { r with phase := .lapsed (after now period) }

theorem tagRec_expireTag_eq (t u : Tag) (s : State) :
    (expireTag t s).tagRec u =
      if u = t then expiredRec s.policy.global.quarantine s.timebase (s.tagRec t) else s.tagRec u := by
  rw [tagRec_expireTag]
  unfold expiredRec
  rfl

/-- The log entry of an expired deadline: one for a tag in ISSUED or FILLING, none for one in BACKOFF (R101). -/
def expiryEntry (s : State) (t : Tag) : Option LogEntry :=
  match s.tagRec t with
  | none => none
  | some r =>
    if r.isBackoff = true ∨ r.isLapsed = true then none
    else some (if r.orphaned then orphanLapseEntry t r else timeoutLapseEntry s t r)

/-- An expired deadline leaves the ports, the timebase, the policy and the buffer. -/
theorem expireTag_frame (t : Tag) (s : State) :
    (expireTag t s).ports = s.ports ∧ (expireTag t s).timebase = s.timebase ∧ (expireTag t s).policy = s.policy ∧
      (expireTag t s).buffer = s.buffer := by
  unfold expireTag
  split
  · exact ⟨rfl, rfl, rfl, rfl⟩
  · split
    · exact ⟨rfl, rfl, rfl, rfl⟩
    · exact ⟨rfl, rfl, rfl, rfl⟩
    · simp
    · simp

theorem loggedInOrder_expireTag (t : Tag) (s : State) : LoggedInOrder s (expireTag t s) (expiryEntry s t).toList := by
  unfold expireTag expiryEntry
  cases s.tagRec t with
  | none => exact loggedInOrder_of_log_eq rfl
  | some r =>
    have hlapse (e : LogEntry) : LoggedInOrder s (appendLog e (lapse t r s)) [e] :=
      (loggedInOrder_of_log_eq (lapse_log t r s)).trans (loggedInOrder_appendLog e _)
    cases hp : r.phase with
    | lapsed q => simp only [TagRec.isLapsed, hp, or_true, if_true]; exact loggedInOrder_of_log_eq rfl
    | backoff d e => simp only [TagRec.isBackoff, hp, true_or, if_true]; exact loggedInOrder_of_log_eq rfl
    | issued d => simpa [TagRec.isBackoff, TagRec.isLapsed, hp] using hlapse _
    | filling d => simpa [TagRec.isBackoff, TagRec.isLapsed, hp] using hlapse _

theorem expireTag_retryQ (t : Tag) (s : State) :
    (expireTag t s).arb.retryQ ⊆ s.arb.retryQ ∧
      (∀ r, s.tagRec t = some r → r.isBackoff = true → t ∉ (expireTag t s).arb.retryQ) := by
  unfold expireTag
  cases s.tagRec t with
  | none => exact ⟨fun _ h => h, by simp⟩
  | some r =>
    cases hp : r.phase with
    | backoff d e => simp [leaveRetryQueue, hp]
    | _ => simp [TagRec.isBackoff, hp]

/-! The expiries of one tick -/

/-- The deadline expiries of a list of tags, in its order (R99). -/
theorem foldl_expireTag (l : List Tag) (s : State) (hl : l.Nodup) :
    (∀ x, (l.foldl (fun acc t => expireTag t acc) s).tagRec x =
        if x ∈ l then expiredRec s.policy.global.quarantine s.timebase (s.tagRec x) else s.tagRec x) ∧
      LoggedInOrder s (l.foldl (fun acc t => expireTag t acc) s) (l.filterMap (expiryEntry s)) ∧
      (l.foldl (fun acc t => expireTag t acc) s).arb.retryQ ⊆ s.arb.retryQ ∧
      ∀ x ∈ l, ∀ r, s.tagRec x = some r → r.isBackoff = true →
        x ∉ (l.foldl (fun acc t => expireTag t acc) s).arb.retryQ := by
  induction l generalizing s with
  | nil => exact ⟨by simp, loggedInOrder_of_log_eq rfl, fun _ h => h, by simp⟩
  | cons t l ih =>
    obtain ⟨ht, hl⟩ := List.nodup_cons.1 hl
    obtain ⟨hports, htime, hpol, -⟩ := expireTag_frame t s
    obtain ⟨hsub, hout⟩ := expireTag_retryQ t s
    obtain ⟨ih1, ih2, ih3, ih4⟩ := ih (expireTag t s) hl
    have hne (x : Tag) (hx : x ∈ l) : (expireTag t s).tagRec x = s.tagRec x := by
      rw [tagRec_expireTag_eq, if_neg (by rintro rfl; exact ht hx)]
    have hentry : l.filterMap (expiryEntry (expireTag t s)) = l.filterMap (expiryEntry s) :=
      List.filterMap_congr fun x hx => by simp [expiryEntry, hne x hx, timeoutLapseEntry, State.port, hports]
    refine ⟨fun x => ?_, ?_, fun x hx => hsub (ih3 hx), fun x hx r hr hb => ?_⟩
    · rw [List.foldl_cons, ih1, hpol, htime, tagRec_expireTag_eq]
      by_cases hxt : x = t
      · subst hxt; simp [ht]
      · simp [hxt]
    · have := (loggedInOrder_expireTag t s).trans ih2
      rw [hentry] at this
      rw [List.filterMap_cons]
      cases h : expiryEntry s t with
      | none => simpa [h] using this
      | some e => simpa [h] using this
    · rcases List.mem_cons.1 hx with rfl | hx
      · exact fun hmem => hout r hr hb (ih3 hmem)
      · exact ih4 x hx r ((hne x hx).trans hr) hb

theorem foldl_expireTag_frame (l : List Tag) (s : State) :
    (l.foldl (fun acc t => expireTag t acc) s).ports = s.ports ∧
      (l.foldl (fun acc t => expireTag t acc) s).timebase = s.timebase ∧
      (l.foldl (fun acc t => expireTag t acc) s).policy = s.policy ∧
      (l.foldl (fun acc t => expireTag t acc) s).buffer = s.buffer :=
  foldl_keeps (P := fun a : State => a.ports = s.ports ∧ a.timebase = s.timebase ∧ a.policy = s.policy ∧
      a.buffer = s.buffer)
    (fun a t ⟨h1, h2, h3, h4⟩ => by
      obtain ⟨g1, g2, g3, g4⟩ := expireTag_frame t a
      exact ⟨g1.trans h1, g2.trans h2, g3.trans h3, g4.trans h4⟩) l ⟨rfl, rfl, rfl, rfl⟩

theorem deadlineDue_iff {s : State} {t : Tag} :
    deadlineDue s t = true ↔ ∃ r d, s.tagRec t = some r ∧ r.deadline = some d ∧ reached s.timebase d = true := by
  unfold deadlineDue
  cases s.tagRec t with
  | none => simp
  | some r => cases hd : r.deadline <;> simp [hd]

theorem TagRec.not_lapsed_of_deadline {r : TagRec} {d : Tick} (h : r.deadline = some d) : r.isLapsed = false := by
  cases hp : r.phase <;> simp_all [TagRec.deadline, TagRec.isLapsed]

/-- A tag in ISSUED or FILLING lapses at its deadline. -/
theorem expiredRec_of_running {r : TagRec} (period : Nat) (now : Tick) (hb : r.isBackoff = false)
    (hl : r.isLapsed = false) :
    expiredRec period now (some r) =
      if period = 0 then none else some { r with phase := .lapsed (after now period) } := by
  cases hp : r.phase <;> simp_all [TagRec.isBackoff, TagRec.isLapsed, expiredRec]

theorem expiredRec_of_backoff {r : TagRec} (period : Nat) (now : Tick) (hb : r.isBackoff = true) :
    expiredRec period now (some r) = none := by
  obtain ⟨d, e, hp⟩ := TagRec.isBackoff_iff.1 hb
  simp [expiredRec, hp]

end Sys2Proof.Machine

namespace Sys2Proof.Proofs

open Sys2Proof.Machine

/-- Settles O28: the tags and the log by `foldl_expireTag`, the live subrequests by `retireAll_dueRetired`; the drain test and
the reports that follow touch none of them. -/
theorem deadlineExpiryByTag : Obligations.DeadlineExpiryByTag := by
  intro s hs
  have hnd : (allTags.filter (deadlineDue s)).Nodup := (List.nodup_finRange 128).filter _
  obtain ⟨htag, hlog, -, hout⟩ := foldl_expireTag _ s hnd
  obtain ⟨hports, htime, hpol, hbuf⟩ := foldl_expireTag_frame (allTags.filter (deadlineDue s)) s
  refine ⟨_, takes_next hs fun s => reportAll (takeDeadlines s), ?_⟩
  unfold takeDeadlines
  extract_lets due es
  generalize due.foldl (fun acc t => expireTag t acc) s = s1 at htag hlog hout hports htime hpol hbuf ⊢
  have hdue {x : Tag} : x ∈ due ↔ deadlineDue s x = true := by simp [due, List.mem_finRange]
  have htag' (x : Tag) : (reportAll (drainTest (retireAll .timeout es s1))).tagRec x = s1.tagRec x := by
    simp [State.tagRec]
  refine ⟨by simp [htime], by simp [hpol], by simp [hbuf], fun x => ⟨fun hx => ?_, fun r hr hx => ?_⟩, ?_, ?_⟩
  · rw [htag', htag, if_neg (by simp [hx])]
  · rw [htag', htag, if_pos (hdue.2 hx), hr]
    obtain ⟨r', d, hr', hd, -⟩ := deadlineDue_iff.1 hx
    obtain rfl : r = r' := Option.some.inj (hr.symm.trans hr')
    refine ⟨fun hb => ⟨expiredRec_of_backoff _ _ hb, ?_⟩, fun hb hq => ?_, fun hb hq => ?_⟩
    · have hq : (reportAll (drainTest (retireAll .timeout es s1))).arb.retryQ = s1.arb.retryQ := by
        simp [(sameRetries_retireAll ..).queue]
      rw [hq]
      exact hout x (hdue.2 hx) r hr hb
    · rw [expiredRec_of_running _ _ hb (r.not_lapsed_of_deadline hd), if_pos hq]
    · rw [expiredRec_of_running _ _ hb (r.not_lapsed_of_deadline hd), if_neg hq]
  · refine retireAll_dueRetired (fun _ => rfl) (by decide) _ hports hpol (fun h i q hq _ _ => ?_) (fun h => ?_)
    · simpa using hq
    · simp [es]
  · have hlist : due.filterMap (expiryEntry s) = _ := List.filterMap_filter ..
    rw [hlist] at hlog
    have hfinal := hlog.trans
      (loggedInOrder_of_log_eq (t := reportAll (drainTest (retireAll .timeout es s1))) (by simp))
    rw [List.append_nil] at hfinal
    refine (congrArg (LoggedInOrder s _) (List.filterMap_congr fun x _ => ?_)).mp hfinal
    by_cases hx : deadlineDue s x = true
    · obtain ⟨r, d, hr, hd, -⟩ := deadlineDue_iff.1 hx
      simp [hx, expiryEntry, hr, r.not_lapsed_of_deadline hd, orphanLapseEntry, timeoutLapseEntry, apply_ite some]
    · cases s.tagRec x <;> simp [hx]

end Sys2Proof.Proofs
end

section
/-! SUPPORT. The loss of the target lane (R158): what its walk over the FAIL ports leaves of a port, and what it does to a
QUEUED record. -/

namespace Sys2Proof.Machine

/-! What Intake's operations leave of a port -/

/-- From `p` to `q` only what Intake keeps of the records has changed: the slots, the response queue, the fence-fault flag
and the counts waiting to be returned. -/
def IntakeOnly (p q : PortState) : Prop :=
  { q with slots := p.slots, respQ := p.respQ, fenceFault := p.fenceFault, retHdr := p.retHdr, retData := p.retData } = p

theorem IntakeOnly.refl (p : PortState) : IntakeOnly p p := rfl

theorem IntakeOnly.trans {p q r : PortState} (h1 : IntakeOnly p q) (h2 : IntakeOnly q r) : IntakeOnly p r :=
  (congrArg (fun x : PortState =>
    { x with
      slots := p.slots, respQ := p.respQ, fenceFault := p.fenceFault, retHdr := p.retHdr, retData := p.retData })
    h2 :).trans h1

theorem IntakeOnly.link {p q : PortState} (h : IntakeOnly p q) : q.link = p.link := (congrArg PortState.link h :)
theorem IntakeOnly.noticePending {p q : PortState} (h : IntakeOnly p q) : q.noticePending = p.noticePending :=
  (congrArg PortState.noticePending h :)
theorem IntakeOnly.session {p q : PortState} (h : IntakeOnly p q) : q.session = p.session :=
  (congrArg PortState.session h :)
theorem IntakeOnly.staging {p q : PortState} (h : IntakeOnly p q) : q.staging = p.staging :=
  (congrArg PortState.staging h :)

theorem intakeOnly_setSlot (i : Slot) (r : Option ReqRec) (p : PortState) : IntakeOnly p (p.setSlot i r) := rfl

theorem intakeOnly_vacate (i : Slot) (p : PortState) : IntakeOnly p (vacate i p) := by
  unfold vacate; split <;> rfl

theorem intakeOnly_enterReady (i : Slot) (st : HostStatus) (p : PortState) : IntakeOnly p (enterReady i st p) := by
  unfold enterReady; split <;> rfl

theorem intakeOnly_fenceTest (p : PortState) : IntakeOnly p (fenceTest p) := by
  refine repeated_keeps (P := IntakeOnly p) (fun a ha => ha.trans ?_) 16 (.refl p)
  rcases fenceStep_cases a with ⟨-, he⟩ | ⟨i, r, -, -, -, -, he⟩ <;> rw [he] <;> rfl

theorem intakeOnly_readyTest (m : ErrorMap) (i : Slot) (p : PortState) : IntakeOnly p (readyTest m i p) := by
  unfold readyTest
  split
  · rfl
  · split
    · exact (intakeOnly_setSlot ..).trans (intakeOnly_enterReady ..)
    · rfl

theorem intakeOnly_retireAt (m : ErrorMap) (i : Slot) (n : Nat) (o : SubOutcome) (p : PortState) :
    IntakeOnly p (retireAt m i n o p) := by
  cases hq : p.slot i with
  | none => simp only [retireAt, hq]; rfl
  | some q =>
    rcases retireAt_cases m n o hq with ⟨-, hp⟩ | ⟨r, -, -, hp⟩
    · rw [hp]; rfl
    · rw [hp]
      exact ((intakeOnly_setSlot ..).trans (intakeOnly_readyTest ..)).trans (intakeOnly_fenceTest _)

theorem intakeOnly_retireAll (o : SubOutcome) (es : List (Port × Slot × Nat × Tag)) (s : State) (h : Port) :
    IntakeOnly (s.port h) ((retireAll o es s).port h) := by
  refine foldl_keeps (P := fun a : State => IntakeOnly (s.port h) (a.port h)) (fun a e ha => ?_) es (.refl _)
  rw [retire_port]
  split
  · subst h; exact ha.trans (intakeOnly_retireAt ..)
  · exact ha

/-! Slots under the FENCE test -/

/-- The FENCE test fills no VACANT slot. -/
theorem fenceTest_vacant {p : PortState} {i : Slot} (h : p.slot i = none) : (fenceTest p).slot i = none := by
  refine repeated_keeps (P := fun a : PortState => a.slot i = none) (fun a ha => ?_) 16 h
  rcases fenceStep_cases a with ⟨-, he⟩ | ⟨j, r, -, hj, -, -, he⟩
  · rw [he]; exact ha
  · have hne : i ≠ j := by rintro rfl; rw [ha] at hj; cases hj
    rw [he]
    exact (slot_setSlot_ne a _ hne).trans ha

/-! A fold that visits one element -/

theorem foldl_keeps_of_mem {α β : Type} {P : α → Prop} {f : α → β → α} {l : List β}
    (hf : ∀ a, ∀ b ∈ l, P a → P (f a b)) {a : α} (ha : P a) : P (l.foldl f a) := by
  induction l generalizing a with
  | nil => exact ha
  | cons b l ih => exact ih (fun a c hc => hf a c (List.mem_cons_of_mem _ hc)) (hf a b (by simp) ha)

/-- A fold over distinct elements, followed at one of them: what holds before its turn, what its turn makes of it, and what
holds from then on. -/
theorem foldl_visits {α β : Type} {P Q : α → Prop} {f : α → β → α} {b : β} {l : List β} (hl : l.Nodup) (hb : b ∈ l)
    (hP : ∀ a c, c ≠ b → P a → P (f a c)) (hv : ∀ a, P a → Q (f a b)) (hQ : ∀ a c, c ≠ b → Q a → Q (f a c)) {a : α}
    (ha : P a) : Q (l.foldl f a) := by
  obtain ⟨l1, l2, rfl⟩ := List.append_of_mem hb
  obtain ⟨-, hl2, hdisj⟩ := List.nodup_append.1 hl
  have h1 : P (l1.foldl f a) := foldl_keeps_of_mem (fun a c hc => hP a c (hdisj c hc b (by simp))) ha
  rw [List.foldl_append, List.foldl_cons]
  exact foldl_keeps_of_mem (fun a c hc => hQ a c (by rintro rfl; exact (List.nodup_cons.1 hl2).1 hc)) (hv _ h1)

/-! The FAIL walk (R159) -/

/-- What the FAIL walk leaves of a port: its lane, its pending notices, its response queue but for additions, the records
that have left QUEUED but for FENCEs, and the VACANT slots. -/
structure PortKept (p q : PortState) : Prop where
  link : q.link = p.link
  notices : ∀ b, p.noticePending.getLsbD b = true → q.noticePending.getLsbD b = true
  respQ : p.respQ ⊆ q.respQ
  slots : ∀ i r, p.slot i = some r → r.kind ≠ .fence → r.stage ≠ .queued → q.slot i = some r
  vacant : ∀ i, p.slot i = none → q.slot i = none

theorem PortKept.refl (p : PortState) : PortKept p p :=
  ⟨rfl, fun _ h => h, fun _ h => h, fun _ _ h _ _ => h, fun _ h => h⟩

theorem PortKept.trans {p q r : PortState} (h1 : PortKept p q) (h2 : PortKept q r) : PortKept p r :=
  ⟨h2.link.trans h1.link, fun b h => h2.notices b (h1.notices b h), List.Subset.trans h1.respQ h2.respQ,
    fun i x h hk hs => h2.slots i x (h1.slots i x h hk hs) hk hs, fun i h => h2.vacant i (h1.vacant i h)⟩

theorem portKept_fenceTest (p : PortState) : PortKept p (fenceTest p) := by
  have h := intakeOnly_fenceTest p
  obtain ⟨h1, h2⟩ := fenceTest_keeps p
  exact ⟨h.link, fun b hb => by rwa [h.noticePending], h2.subset, fun i r hr hk _ => h1 i r hr hk,
    fun i => fenceTest_vacant⟩

theorem raiseNotice_of_active {p : PortState} (bits : NoticeBits) (h : p.link = .active) :
    raiseNotice bits p = { p with noticePending := p.noticePending ||| bits } := by
  simp [raiseNotice, PortState.isActive, h]

/-- A raised notice touches the pending set alone, and takes nothing from it (R128). -/
theorem raiseNotice_frame (bits : NoticeBits) (p : PortState) :
    { raiseNotice bits p with noticePending := p.noticePending } = p ∧
      ∀ b, p.noticePending.getLsbD b = true → (raiseNotice bits p).noticePending.getLsbD b = true := by
  unfold raiseNotice
  split
  · exact ⟨rfl, fun b hb => by simp [hb]⟩
  · exact ⟨rfl, fun _ hb => hb⟩

@[simp] theorem raiseNotice_slots (bits : NoticeBits) (p : PortState) : (raiseNotice bits p).slots = p.slots :=
  (congrArg PortState.slots (raiseNotice_frame bits p).1 :)
@[simp] theorem raiseNotice_respQ (bits : NoticeBits) (p : PortState) : (raiseNotice bits p).respQ = p.respQ :=
  (congrArg PortState.respQ (raiseNotice_frame bits p).1 :)
@[simp] theorem raiseNotice_link (bits : NoticeBits) (p : PortState) : (raiseNotice bits p).link = p.link :=
  (congrArg PortState.link (raiseNotice_frame bits p).1 :)
@[simp] theorem raiseNotice_slot (bits : NoticeBits) (p : PortState) (i : Slot) :
    (raiseNotice bits p).slot i = p.slot i := by
  simp [PortState.slot]

/-- A QUEUED record that enters READY. -/
theorem portKept_enterReady {p : PortState} {i : Slot} {r : ReqRec} (hr : p.slot i = some r) (hs : r.stage = .queued)
    (st : HostStatus) : PortKept p (enterReady i st p) := by
  rw [enterReady_of_some hr]
  refine ⟨rfl, fun _ h => h, List.subset_append_left .., fun j x hx _ hne => ?_, fun j hj => ?_⟩
  · have : j ≠ i := by rintro rfl; rw [hr] at hx; cases hx; exact hne hs
    exact (slot_setSlot_ne p _ this).trans hx
  · have : j ≠ i := by rintro rfl; rw [hr] at hj; cases hj
    exact (slot_setSlot_ne p _ this).trans hj

/-- The port after a POST of slot `i` has been dropped (R40). -/
def droppedPort (i : Slot) (p : PortState) : PortState :=
  { raiseNotice noticePostedRejected (vacate i p) with fenceFault := true }

theorem droppedPort_slot {p : PortState} {i : Slot} {r : ReqRec} (hr : p.slot i = some r) (j : Slot) :
    (droppedPort i p).slot j = if j = i then none else p.slot j := by
  show (raiseNotice _ (vacate i p)).slot j = _
  rw [raiseNotice_slot, vacate_of_some hr]
  exact slot_setSlot p i j none

theorem portKept_droppedPort {p : PortState} {i : Slot} {r : ReqRec} (hr : p.slot i = some r) (hs : r.stage = .queued) :
    PortKept p (droppedPort i p) := by
  refine ⟨?_, fun b hb => (raiseNotice_frame _ _).2 b ?_, ?_, fun j x hx _ hne => ?_, fun j hj => ?_⟩
  · show (raiseNotice _ (vacate i p)).link = _
    rw [raiseNotice_link, (intakeOnly_vacate i p).link]
  · rwa [(intakeOnly_vacate i p).noticePending]
  · show p.respQ ⊆ (raiseNotice _ (vacate i p)).respQ
    rw [raiseNotice_respQ, vacate_of_some hr]
    exact fun _ h => h
  · rw [droppedPort_slot hr, if_neg, hx]
    rintro rfl; rw [hr] at hx; cases hx; exact hne hs
  · rw [droppedPort_slot hr]
    split
    · rfl
    · exact hj

theorem dropPost_port {s : State} {h : Port} {i : Slot} {r : ReqRec} (hr : (s.port h).slot i = some r) :
    (dropPost h i s).port h = droppedPort i (s.port h) := by
  simp [dropPost, hr, droppedPort]

/-- What the walk's turn at slot `i` does to its port: nothing, or what R159 gives for a QUEUED READ, WRITE or POST. -/
theorem failRecord_port (h : Port) (i : Slot) (s : State) :
    ((failRecord h i s).port h = s.port h ∨
      ∃ r, (s.port h).slot i = some r ∧ r.stage = .queued ∧
        ((failRecord h i s).port h = enterReady i .unavailable (s.port h) ∨
          (failRecord h i s).port h = droppedPort i (s.port h))) := by
  unfold failRecord
  split
  · exact .inl rfl
  · rename_i r hr
    split
    · rename_i hs
      split
      · exact .inr ⟨r, hr, hs, .inl (port_modPort_same ..)⟩
      · exact .inr ⟨r, hr, hs, .inl (port_modPort_same ..)⟩
      · exact .inr ⟨r, hr, hs, .inr (dropPost_port hr)⟩
      · exact .inl rfl
    · exact .inl rfl

theorem portKept_failRecord (h : Port) (i : Slot) (s : State) : PortKept (s.port h) ((failRecord h i s).port h) := by
  rcases failRecord_port h i s with e | ⟨r, hr, hs, e | e⟩ <;> rw [e]
  · exact .refl _
  · exact portKept_enterReady hr hs _
  · exact portKept_droppedPort hr hs

theorem failRecord_slot_ne {h : Port} {i j : Slot} (s : State) (hj : j ≠ i) :
    ((failRecord h i s).port h).slot j = (s.port h).slot j := by
  rcases failRecord_port h i s with e | ⟨r, hr, hs, e | e⟩ <;> rw [e]
  · rw [enterReady_of_some hr]
    exact slot_setSlot_ne _ _ hj
  · rw [droppedPort_slot hr, if_neg hj]

/-- Beyond the ports, the walk touches the log and the events, and takes claims from the claim queue. -/
structure LossFrame (s t : State) : Prop where
  tags : t.tags = s.tags
  target : t.target = s.target
  timebase : t.timebase = s.timebase
  policy : t.policy = s.policy
  buffer : t.buffer = s.buffer
  pending : t.pending = s.pending
  mgmt : t.mgmt = s.mgmt
  retryQ : t.arb.retryQ = s.arb.retryQ
  dataHold : t.arb.dataHold = s.arb.dataHold
  reshape : t.arb.reshape = s.arb.reshape
  claims : t.arb.claims ⊆ s.arb.claims

theorem LossFrame.refl (s : State) : LossFrame s s :=
  ⟨rfl, rfl, rfl, rfl, rfl, rfl, rfl, rfl, rfl, rfl, fun _ h => h⟩

theorem LossFrame.trans {s t u : State} (h1 : LossFrame s t) (h2 : LossFrame t u) : LossFrame s u :=
  ⟨h2.tags.trans h1.tags, h2.target.trans h1.target, h2.timebase.trans h1.timebase, h2.policy.trans h1.policy,
    h2.buffer.trans h1.buffer, h2.pending.trans h1.pending, h2.mgmt.trans h1.mgmt, h2.retryQ.trans h1.retryQ,
    h2.dataHold.trans h1.dataHold, h2.reshape.trans h1.reshape, List.Subset.trans h2.claims h1.claims⟩

/-- The walk of one port leaves the others. -/
structure WalkFrame (h : Port) (s t : State) : Prop where
  rest : LossFrame s t
  ports : ∀ g, g ≠ h → t.port g = s.port g

theorem WalkFrame.refl (h : Port) (s : State) : WalkFrame h s s := ⟨.refl s, fun _ _ => rfl⟩

theorem WalkFrame.trans {h : Port} {s t u : State} (h1 : WalkFrame h s t) (h2 : WalkFrame h t u) : WalkFrame h s u :=
  ⟨h1.rest.trans h2.rest, fun g hg => (h2.ports g hg).trans (h1.ports g hg)⟩

theorem walkFrame_modPort (h : Port) (f : PortState → PortState) (s : State) : WalkFrame h s (s.modPort h f) :=
  ⟨⟨rfl, rfl, rfl, rfl, rfl, rfl, rfl, rfl, rfl, rfl, fun _ h => h⟩, fun _ hg => port_modPort_ne s f hg⟩

theorem walkFrame_appendLog (h : Port) (e : LogEntry) (s : State) : WalkFrame h s (appendLog e s) :=
  ⟨⟨by simp, by simp, by simp, by simp, by simp, by simp, by simp, by simp, by simp, by simp, by simp⟩, by simp⟩

theorem walkFrame_failRecord (h : Port) (i : Slot) (s : State) : WalkFrame h s (failRecord h i s) := by
  unfold failRecord
  split
  · exact .refl h s
  · split
    · split
      · exact (walkFrame_modPort h _ s).trans
          ⟨⟨rfl, rfl, rfl, rfl, rfl, rfl, rfl, rfl, rfl, rfl, fun _ hm => List.mem_of_mem_filter hm⟩, fun _ _ => rfl⟩
      · exact walkFrame_modPort ..
      · unfold dropPost
        split
        · exact .refl h s
        · exact (walkFrame_appendLog ..).trans (walkFrame_modPort ..)
      · exact .refl h s
    · exact .refl h s

/-- One turn of the walk: the record, then the FENCE test. -/
def failTurn (h : Port) (s : State) (i : Slot) : State := (failRecord h i s).modPort h fenceTest

theorem failWalk_eq (h : Port) (s : State) : failWalk h s = (s.port h).acceptanceOrder.foldl (failTurn h) s := rfl

theorem walkFrame_failTurn (h : Port) (i : Slot) (s : State) : WalkFrame h s (failTurn h s i) :=
  (walkFrame_failRecord h i s).trans (walkFrame_modPort ..)

theorem failTurn_port (h : Port) (i : Slot) (s : State) :
    (failTurn h s i).port h = fenceTest ((failRecord h i s).port h) := port_modPort_same ..

theorem portKept_failTurn (h : Port) (i : Slot) (s : State) : PortKept (s.port h) ((failTurn h s i).port h) := by
  rw [failTurn_port]
  exact (portKept_failRecord h i s).trans (portKept_fenceTest _)

theorem failWalk_kept (h : Port) (s : State) :
    WalkFrame h s (failWalk h s) ∧ PortKept (s.port h) ((failWalk h s).port h) :=
  foldl_keeps (P := fun a : State => WalkFrame h s a ∧ PortKept (s.port h) (a.port h))
    (fun a i ⟨h1, h2⟩ => ⟨h1.trans (walkFrame_failTurn h i a), h2.trans (portKept_failTurn h i a)⟩) _
    ⟨.refl h s, .refl _⟩

/-- What the FAIL walk makes of a QUEUED record of its port that is no FENCE (R40, R159). -/
structure FailAnswered (h : Port) (i : Slot) (q : ReqRec) (link : HostLink) (t : State) : Prop where
  post : q.kind = .post → (t.port h).slot i = none ∧ (link = .active → (t.port h).noticePending.getLsbD 2 = true)
  other : q.kind ≠ .post →
    (t.port h).slot i = some { q with stage := .ready, status := some .unavailable, staging := [] } ∧
      i ∈ (t.port h).respQ
  claims : q.kind = .read → ∀ c ∈ t.arb.claims, c.1 ≠ h

theorem FailAnswered.keep {h : Port} {i : Slot} {q : ReqRec} {l : HostLink} {s t : State} (hk : q.kind ≠ .fence)
    (ha : FailAnswered h i q l s) (hp : PortKept (s.port h) (t.port h)) (hc : t.arb.claims ⊆ s.arb.claims) :
    FailAnswered h i q l t :=
  ⟨fun e => ⟨hp.vacant i (ha.post e).1, fun hl => hp.notices 2 ((ha.post e).2 hl)⟩,
    fun e => ⟨hp.slots i _ (ha.other e).1 hk (by simp), hp.respQ (ha.other e).2⟩,
    fun e c hm => ha.claims e c (hc hm)⟩

/-- The turn at a QUEUED record that is no FENCE answers or drops it. -/
theorem failTurn_answers {h : Port} {i : Slot} {q : ReqRec} {s : State} (hq : (s.port h).slot i = some q)
    (hs : q.stage = .queued) (hk : q.kind ≠ .fence) : FailAnswered h i q (s.port h).link (failTurn h s i) := by
  refine FailAnswered.keep (s := failRecord h i s) hk ?_
    (by rw [failTurn_port]; exact portKept_fenceTest _) (fun _ h => h)
  have hready : (enterReady i .unavailable (s.port h)).slot i =
      some { q with stage := .ready, status := some .unavailable, staging := [] } ∧
        i ∈ (enterReady i .unavailable (s.port h)).respQ := by
    rw [enterReady_of_some hq]
    exact ⟨slot_setSlot_same .., by simp⟩
  unfold failRecord
  simp only [hq, hs, if_true]
  cases hkind : q.kind with
  | read =>
    refine ⟨by simp [hkind], fun _ => ?_, fun _ c hc => ?_⟩
    · exact (port_modPort_same s h _).symm ▸ hready
    · simpa using (List.mem_filter.1 hc).2
  | write => exact ⟨by simp [hkind], fun _ => (port_modPort_same s h _).symm ▸ hready, by simp [hkind]⟩
  | post =>
    refine ⟨fun _ => ?_, by simp [hkind], by simp [hkind]⟩
    dsimp only
    rw [dropPost_port hq]
    refine ⟨by rw [droppedPort_slot hq, if_pos rfl], fun hl => ?_⟩
    have hact : (vacate i (s.port h)).link = .active := by rw [(intakeOnly_vacate i _).link, hl]
    simp [droppedPort, raiseNotice_of_active _ hact]
  | fence => exact absurd hkind hk

theorem failWalk_answers {h : Port} {i : Slot} {q : ReqRec} {s : State} (hq : (s.port h).slot i = some q)
    (hs : q.stage = .queued) (hk : q.kind ≠ .fence) : FailAnswered h i q (s.port h).link (failWalk h s) := by
  rw [failWalk_eq]
  refine foldl_visits (P := fun a : State => (a.port h).slot i = some q ∧ (a.port h).link = (s.port h).link)
    (acceptanceOrder_nodup _) (mem_acceptanceOrder.2 (by simp [hq])) (fun a j hj ⟨h1, h2⟩ => ⟨?_, ?_⟩)
    (fun a ⟨h1, h2⟩ => h2 ▸ failTurn_answers h1 hs hk)
    (fun a j _ ha => ha.keep hk (portKept_failTurn h j a) (walkFrame_failTurn h j a).rest.claims) ⟨hq, rfl⟩
  · rw [failTurn_port]
    exact (fenceTest_keeps _).1 i q ((failRecord_slot_ne a (Ne.symm hj)).trans h1) hk
  · exact (portKept_failTurn h j a).link.trans h2

/-! Step 4 of a loss, over the ports -/

/-- The part of one port in step 4. -/
def failTurnPort (s : State) (h : Port) : State := if (s.portPolicy h).behaviour = .fail then failWalk h s else s

theorem failPorts_eq (s : State) : failPorts s = allPorts.foldl failTurnPort s := rfl

theorem failTurnPort_kept (h : Port) (s : State) :
    WalkFrame h s (failTurnPort s h) ∧ PortKept (s.port h) ((failTurnPort s h).port h) := by
  unfold failTurnPort
  split
  · exact failWalk_kept h s
  · exact ⟨.refl h s, .refl _⟩

theorem failTurnPort_portKept (h g : Port) (s : State) : PortKept (s.port g) ((failTurnPort s h).port g) := by
  obtain ⟨hw, hk⟩ := failTurnPort_kept h s
  by_cases hg : g = h
  · exact hg ▸ hk
  · rw [hw.ports g hg]
    exact .refl _

theorem portPolicy_congr {s t : State} (h : t.policy = s.policy) (g : Port) : t.portPolicy g = s.portPolicy g := by
  simp [State.portPolicy, h]

theorem failPorts_kept (s : State) :
    LossFrame s (failPorts s) ∧ ∀ h, PortKept (s.port h) ((failPorts s).port h) :=
  foldl_keeps (P := fun a : State => LossFrame s a ∧ ∀ h, PortKept (s.port h) (a.port h))
    (fun a g ⟨h1, h2⟩ =>
      ⟨h1.trans (failTurnPort_kept g a).1.rest, fun h => (h2 h).trans (failTurnPort_portKept g h a)⟩) _
    ⟨.refl s, fun _ => .refl _⟩

/-- A port under HOLD is left as it stands (R159). -/
theorem failPorts_hold {s : State} {h : Port} (hb : (s.portPolicy h).behaviour = .hold) :
    (failPorts s).port h = s.port h := by
  refine (foldl_keeps (P := fun a : State => a.policy = s.policy ∧ a.port h = s.port h) (fun a g ⟨hpol, hport⟩ => ?_) _
    ⟨rfl, rfl⟩).2
  obtain ⟨hw, -⟩ := failTurnPort_kept g a
  refine ⟨hw.rest.policy.trans hpol, ?_⟩
  by_cases hg : h = g
  · have : (a.portPolicy g).behaviour ≠ .fail := by
      rw [← hg, portPolicy_congr hpol, hb]; decide
    exact (congrArg (·.port h) (if_neg this : failTurnPort a g = a)).trans hport
  · exact (hw.ports h hg).trans hport

/-- A QUEUED record of a port under FAIL is answered or dropped (R40, R159). -/
theorem failPorts_answers {s : State} {h : Port} {i : Slot} {q : ReqRec} (hb : (s.portPolicy h).behaviour = .fail)
    (hq : (s.port h).slot i = some q) (hs : q.stage = .queued) (hk : q.kind ≠ .fence) :
    FailAnswered h i q (s.port h).link (failPorts s) := by
  rw [failPorts_eq]
  refine foldl_visits (P := fun a : State => a.policy = s.policy ∧ a.port h = s.port h) (List.nodup_finRange 4)
    (List.mem_finRange h) ?others ?turn (fun a g _ ha => ?_) ⟨rfl, rfl⟩
  case others =>
    rintro a g hg ⟨h1, h2⟩
    obtain ⟨hw, -⟩ := failTurnPort_kept g a
    exact ⟨hw.rest.policy.trans h1, (hw.ports h (Ne.symm hg)).trans h2⟩
  case turn =>
    rintro a ⟨h1, h2⟩
    rw [failTurnPort, if_pos ((portPolicy_congr h1 h).symm ▸ hb), ← h2]
    exact failWalk_answers (h2 ▸ hq) hs hk
  exact ha.keep hk (failTurnPort_portKept g h a) (failTurnPort_kept g a).1.rest.claims

/-! The whole loss -/

/-- From `l` to `m` only the effective MRS has changed. -/
def EffMrsOnly (l m : TargetLane) : Prop := { m with effMrs := l.effMrs } = l

theorem EffMrsOnly.link {l m : TargetLane} (h : EffMrsOnly l m) : m.link = l.link := (congrArg TargetLane.link h :)
theorem EffMrsOnly.tx {l m : TargetLane} (h : EffMrsOnly l m) : m.tx = l.tx := (congrArg TargetLane.tx h :)
theorem EffMrsOnly.lastDown {l m : TargetLane} (h : EffMrsOnly l m) : m.lastDown = l.lastDown :=
  (congrArg TargetLane.lastDown h :)
theorem EffMrsOnly.totals {l m : TargetLane} (h : EffMrsOnly l m) :
    (m.totalHdr, m.totalData) = (l.totalHdr, l.totalData) :=
  (congrArg (fun x : TargetLane => (x.totalHdr, x.totalData)) h :)
theorem EffMrsOnly.held {l m : TargetLane} (h : EffMrsOnly l m) : (m.heldHdr, m.heldData) = (l.heldHdr, l.heldData) :=
  (congrArg (fun x : TargetLane => (x.heldHdr, x.heldData)) h :)

theorem releaseAll_frame (s : State) :
    (releaseAll s).ports = (retireAll .linkDown (liveEntries s) s).ports ∧ (releaseAll s).timebase = s.timebase ∧
      (releaseAll s).policy = s.policy ∧ (releaseAll s).buffer = s.buffer ∧ (releaseAll s).pending = s.pending ∧
      (releaseAll s).mgmt = s.mgmt ∧ EffMrsOnly s.target (releaseAll s).target := by
  unfold releaseAll EffMrsOnly
  dsimp only
  split
  · simp
  · simp [completeDrain, raiseEvent]

theorem lastLogged_appendLog {s a : State} (e : LogEntry) (h : a.timebase = s.timebase) :
    LastLogged s (appendLog e a) e := by
  refine ⟨⟨a.log.next, a.timebase, e⟩, ?_, rfl, h, ?_⟩ <;> simp [appendLog_log]

theorem cutTarget_tx (l : TargetLane) : (cutTarget l).tx = .idle := by
  unfold cutTarget
  split
  · assumption
  · rfl

/-- TARGET_DOWN is pending while the lane is not UP (R172). -/
theorem targetDown_pending {s : State} (h : s.target.link ≠ .up) : (pendingSet s).getLsbD eventTargetDown = true := by
  simp [pendingSet, State.targetUp, h, eventTargetDown]

theorem targetLoss_lost (c : DownCause) (s : State) :
    TargetLost c s (targetLoss c s) ∧ (targetLoss c s).mgmt = s.mgmt := by
  have hdef : targetLoss c s = appendLog { kind := .targetLaneDown, detail := some c.code }
      ((failPorts (releaseAll (s.modTarget (enterTargetHoldoff s.timebase c)))).modPorts
        (raiseNotice noticeTargetDown)) := rfl
  rw [hdef]
  clear hdef
  obtain ⟨htag, hq, hh, hr⟩ := releaseAll_spec (s.modTarget (enterTargetHoldoff s.timebase c))
  obtain ⟨-, htime, hpol, hbuf, hpend, hmgmt, htarget⟩ :=
    releaseAll_frame (s.modTarget (enterTargetHoldoff s.timebase c))
  generalize releaseAll (s.modTarget (enterTargetHoldoff s.timebase c)) = u at *
  obtain ⟨hf, -⟩ := failPorts_kept u
  generalize failPorts u = w at hf ⊢
  have hlane : EffMrsOnly (enterTargetHoldoff s.timebase c s.target) w.target := by
    rw [hf.target]; exact htarget
  have htx : w.target.tx = .idle := hlane.tx.trans (cutTarget_tx s.target)
  have hlink : w.target.link = .holdoff (s.timebase + 64) := hlane.link
  have htot := hlane.totals
  have hheld := hlane.held
  have htags (x : Tag) : w.tagRec x = none := by rw [State.tagRec, hf.tags]; exact htag x
  simp only [enterTargetHoldoff, Prod.mk.injEq] at htot hheld
  generalize hv : w.modPorts (raiseNotice noticeTargetDown) = v
  have hvt : v.target = w.target ∧ v.arb = w.arb ∧ v.timebase = s.timebase := by
    rw [← hv]; exact ⟨rfl, rfl, hf.timebase.trans htime⟩
  obtain ⟨hvtarget, hvarb, hvtime⟩ := hvt
  refine ⟨?_, ?_⟩
  · unfold TargetLost
    simp only [appendLog_target, appendLog_tagRec, appendLog_arb, appendLog_timebase, appendLog_policy, appendLog_buffer,
      appendLog_pending, hvtarget, hvarb, hvtime]
    refine ⟨hlink, hlane.lastDown, htx, by simp [htot, hheld], fun x => ?_, ?_, ?_, ?_, ?_, lastLogged_appendLog _ hvtime,
      trivial, ?_, ?_, ?_⟩
    · rw [← hv]; exact htags x
    · rw [hf.retryQ, hq]
    · rw [hf.dataHold, hh]
    · rw [hf.reshape, hr]
    · exact targetDown_pending (by simp [hvtarget, hlink])
    · rw [← hv]; exact hf.policy.trans hpol
    · rw [← hv]; exact hf.buffer.trans hbuf
    · rw [← hv]; exact hf.pending.trans hpend
  · rw [appendLog_mgmt, ← hv]
    exact hf.mgmt.trans hmgmt

theorem liveEntries_modTarget (s : State) (f : TargetLane → TargetLane) : liveEntries (s.modTarget f) = liveEntries s :=
  rfl

/-- What a loss leaves of the ports, after the reports that follow it. -/
theorem targetLoss_ports (c : DownCause) {s t : State} (hports : ∀ h, t.port h = report ((targetLoss c s).port h))
    (hclaims : t.arb.claims = (targetLoss c s).arb.claims) : PortsAfterLoss s t := by
  have hdef : targetLoss c s = appendLog { kind := .targetLaneDown, detail := some c.code }
      ((failPorts (releaseAll (s.modTarget (enterTargetHoldoff s.timebase c)))).modPorts
        (raiseNotice noticeTargetDown)) := rfl
  obtain ⟨hrel, -, hpol, -, -, -, -⟩ := releaseAll_frame (s.modTarget (enterTargetHoldoff s.timebase c))
  rw [liveEntries_modTarget] at hrel
  rw [hdef] at hports hclaims
  generalize releaseAll (s.modTarget (enterTargetHoldoff s.timebase c)) = u at *
  have hu (h : Port) : u.port h =
      (retireAll .linkDown (liveEntries s) (s.modTarget (enterTargetHoldoff s.timebase c))).port h := by
    simp [State.port, hrel]
  have hlink (h : Port) : (u.port h).link = (s.port h).link := by
    rw [hu]; exact (intakeOnly_retireAll ..).link
  obtain ⟨hf, hkept⟩ := failPorts_kept u
  have ht (h : Port) : (t.port h).slots = ((failPorts u).port h).slots ∧
      (t.port h).respQ = ((failPorts u).port h).respQ := by simp [hports]
  have hslot (h : Port) (i : Slot) : (t.port h).slot i = ((failPorts u).port h).slot i := by
    simp [PortState.slot, ht]
  have hnotice (h : Port) (b : Nat) (hb : ((failPorts u).port h).noticePending.getLsbD b = true) :
      (t.port h).noticePending.getLsbD b = true := by
    simp only [hports, appendLog_port, report_noticePending, port_modPorts]
    exact (raiseNotice_frame _ _).2 b hb
  have hqueued (h : Port) (i : Slot) (q : ReqRec) (hq : (s.port h).slot i = some q) (hcut : q.cut = none)
      (hk : q.kind ≠ .fence) : (u.port h).slot i = some q := by
    have hnone : entriesAt h i (liveEntries s) = [] := by
      refine List.eq_nil_iff_forall_not_mem.2 fun n hn => ?_
      obtain ⟨x, hx⟩ := mem_entriesAt.1 hn
      obtain ⟨r, hr, hout, -⟩ := mem_liveEntries.1 hx
      obtain ⟨c, -, hc, -⟩ := mem_outstanding.1 hout
      rw [hq] at hr; cases hr
      rw [hcut] at hc; cases hc
    have := (retireAll_slot .linkDown (liveEntries s) (s := s.modTarget (enterTargetHoldoff s.timebase c)) hq hk).1
    rw [hu, this, hnone]
    rfl
  refine ⟨?_, fun h => ⟨fun hact => ?_, fun i q hq hs hcut hk => ⟨fun hb => ?_, fun hb => ?_⟩⟩⟩
  · have hall : ((liveEntries s).filter fun e => (fun _ : Tag => true) e.2.2.2) = liveEntries s :=
      List.filter_eq_self.2 fun _ _ => rfl
    refine retireAll_dueRetired (s1 := s.modTarget (enterTargetHoldoff s.timebase c)) (fun _ => rfl) (by decide) _ rfl rfl
      (fun h i q hq hk hs => ?_) (fun h => ?_)
    · rw [hall, ← hu] at hq
      exact (hslot h i).trans ((hkept h).slots i q hq hk hs)
    · rw [hall, ← hu, (ht h).2]
      exact (hkept h).respQ
  · have hlive : ((failPorts u).port h).link = .active := ((hkept h).link.trans (hlink h)).trans hact
    simp [hports, raiseNotice_of_active _ hlive, noticeTargetDown]
  · rw [hslot, failPorts_hold ((portPolicy_congr hpol h).symm ▸ hb)]
    exact hqueued h i q hq hcut hk
  · obtain ⟨hpost, hother, hread⟩ :=
      failPorts_answers ((portPolicy_congr hpol h).symm ▸ hb) (hqueued h i q hq hcut hk) hs hk
    refine ⟨fun e => ?post, fun e => ?other, fun e x hx => ?read⟩
    case post => exact ⟨(hslot h i).trans (hpost e).1, fun hl => hnotice h 2 ((hpost e).2 ((hlink h).trans hl))⟩
    case other =>
      obtain ⟨hrec, hmem⟩ := hother e
      exact ⟨(hslot h i).trans hrec, (ht h).2.symm ▸ hmem⟩
    case read =>
      rw [hclaims, appendLog_arb, modPorts_arb] at hx
      exact hread e x hx

/-- The state after the reports of `u`, with the results of a command written or not. -/
structure ReportedFrom (u t : State) : Prop where
  frame : { t with ports := u.ports, mgmt := u.mgmt } = u
  ports : ∀ h, t.port h = report (u.port h)

theorem reportedFrom_reportAll (u : State) : ReportedFrom u (reportAll u) := ⟨rfl, fun h => port_modPorts _ report h⟩

theorem reportedFrom_setResult (code : BitVec 8) (r : CmdResult) (u : State) :
    ReportedFrom u (reportAll (setResult code r u)) :=
  ⟨rfl, fun h => port_modPorts _ report h⟩

theorem TargetLost.reported {c : DownCause} {s u t : State} (h : TargetLost c s u) (ht : ReportedFrom u t) :
    TargetLost c s t := by
  rw [← ht.frame] at h
  exact h

theorem ReportedFrom.claims {u t : State} (ht : ReportedFrom u t) : t.arb.claims = u.arb.claims :=
  (congrArg (fun a : State => a.arb.claims) ht.frame :)

theorem targetLoss_reported {c : DownCause} {s t : State} (ht : ReportedFrom (targetLoss c s) t) :
    TargetLost c s t ∧ PortsAfterLoss s t :=
  ⟨(targetLoss_lost c s).1.reported ht, targetLoss_ports c ht.ports ht.claims⟩

theorem downWith_of_up {s : State} (h : s.target.link = .up) (c : DownCause) : downWith c s = targetLoss c s := by
  simp [downWith, h]

end Sys2Proof.Machine

namespace Sys2Proof.Proofs

open Sys2Proof.Machine

/-- Settles O50: a loss runs the retirements, the release of the tags, the FAIL walk and the notices in the order of R158,
and each later part leaves what the earlier ones have settled. -/
theorem targetLaneLossReleasesAll : Obligations.TargetLaneLossReleasesAll := by
  intro s hhold hup
  refine ⟨?carrier, ?check, ?command⟩
  case carrier =>
    let s1 := s.modTarget fun l => { l with carrier := false }
    have hexec : exec .targetCarrierLoss s = .next (reportAll (targetLoss .carrierLoss s1)) := by
      show execTargetCarrierLoss s = _
      simp [execTargetCarrierLoss, loseTarget, hup, State.inHold, hhold, s1]
    obtain ⟨hlost, hports⟩ := targetLoss_reported (reportedFrom_reportAll (targetLoss .carrierLoss s1))
    exact ⟨_, hexec, hlost, hports, (reportAll_mgmt _).trans (targetLoss_lost _ s1).2⟩
  case check =>
    have hexec : exec .targetCheckFailure s = .next (reportAll (targetLoss .protocol s)) :=
      (takes_next hhold fun s => reportAll (downWith .protocol s)).trans (by rw [downWith_of_up hup])
    obtain ⟨hlost, hports⟩ := targetLoss_reported (reportedFrom_reportAll (targetLoss .protocol s))
    exact ⟨_, hexec, hlost, hports, (reportAll_mgmt _).trans (targetLoss_lost _ s).2⟩
  case command =>
    have hexec : exec .targetReset s = .next (reportAll (setResult 2 .done (targetLoss .targetReset s))) :=
      (takes_next hhold fun s => reportAll (commandTargetReset s)).trans
        (by rw [commandTargetReset, downWith_of_up hup]; rfl)
    obtain ⟨hlost, hports⟩ := targetLoss_reported (reportedFrom_setResult 2 .done (targetLoss .targetReset s))
    refine ⟨_, hexec, hlost, hports, ?_⟩
    rw [reportAll_mgmt, setResult, (targetLoss_lost _ s).2]

end Sys2Proof.Proofs
end

section
/-! SUPPORT. The parts of 04: what a TCPL does by the state of its tag, for live tags and for orphans. -/

namespace Sys2Proof.Machine

/-! A drain that still waits for a tag -/

/-- A drain does not complete while a tag is in ISSUED, FILLING or BACKOFF (R66). -/
theorem drainTest_of_waiting {s : State} {t : Tag} {r : TagRec} (hr : s.tagRec t = some r) (hl : r.isLapsed = false) :
    drainTest s = s := by
  have hmem : some r ∈ s.tags.toList := by
    rw [← hr]
    exact Array.getElem_mem_toList _
  have hclear : drainClear s = false := by
    simp only [drainClear, Bool.and_eq_false_iff, List.all_eq_false]
    exact .inr ⟨some r, hmem, by simp [drainWaitsFor, hl]⟩
  rcases drainTest_cases s with h | ⟨m, x, y, -, h, -⟩
  · exact h
  · rw [hclear] at h; cases h

/-! The class of a part (R77, R78) -/

theorem TagRec.kind_ne_write {r : TagRec} : r.kind ≠ .write ↔ r.kind = .read := by
  cases r.kind <;> simp

/-- A part without data that ends a tag with an outcome: the OK of a WRITE, and the refusals. -/
theorem checkPart_answer {r : TagRec} {st : BitVec 8} {rem : Nat} {data : List Byte} {o : SubOutcome}
    (hfit : PartFits r st rem data)
    (ho : st = 0 ∧ r.kind = .write ∧ o = .ok ∨ st = 2 ∧ o = .unsupported ∨ st = 3 ∧ o = .aborted) :
    checkPart r ⟨st, rem, data⟩ = .answer o := by
  by_cases hk : r.kind = .write
  · obtain ⟨rfl, rfl, -⟩ := by simpa only [PartFits, hk, if_true] using hfit
    rcases ho with ⟨rfl, -, rfl⟩ | ⟨rfl, rfl⟩ | ⟨rfl, rfl⟩ <;> simp [checkPart, hk, checkWritePart, TcplStatus.ofCode]
  · have hr := TagRec.kind_ne_write.1 hk
    obtain ⟨rfl, hrow⟩ := by simpa only [PartFits, hk, if_false] using hfit
    rcases ho with ⟨-, h, -⟩ | ⟨rfl, rfl⟩ | ⟨rfl, rfl⟩
    · exact absurd h hk
    · simp_all [checkPart, checkReadPart, TcplStatus.ofCode]
    · simp_all [checkPart, checkReadPart, TcplStatus.ofCode]

theorem checkPart_retry {r : TagRec} {rem : Nat} {data : List Byte} (hfit : PartFits r 4 rem data) :
    checkPart r ⟨4, rem, data⟩ = .retry := by
  by_cases hk : r.kind = .write
  · obtain ⟨rfl, rfl, -⟩ := by simpa only [PartFits, hk, if_true] using hfit
    simp [checkPart, hk, checkWritePart, TcplStatus.ofCode]
  · have hr := TagRec.kind_ne_write.1 hk
    obtain ⟨rfl, hrow⟩ := by simpa only [PartFits, hk, if_false] using hfit
    simp_all [checkPart, checkReadPart, TcplStatus.ofCode]

/-- A data part of a READ, POISONED or not. -/
theorem checkPart_data {r : TagRec} {st : BitVec 8} {rem : Nat} {data : List Byte} (hfit : PartFits r st rem data)
    (hk : r.kind = .read) (hst : st = 0 ∨ st = 1) : checkPart r ⟨st, rem, data⟩ = .data (decide (st = 1)) := by
  obtain ⟨rfl, hrow⟩ := by simpa only [PartFits, hk, reduceCtorEq, if_false] using hfit
  rcases hst with rfl | rfl <;> simp_all [checkPart, checkReadPart, TcplStatus.ofCode, dataPartOk]

/-- The status of a well-formed part is one of the five. -/
theorem PartFits.status_cases {r : TagRec} {st : BitVec 8} {rem : Nat} {data : List Byte} (hfit : PartFits r st rem data) :
    (r.kind = .read ∧ (st = 0 ∨ st = 1)) ∨ st = 4 ∨
      ∃ o, st = 0 ∧ r.kind = .write ∧ o = .ok ∨ st = 2 ∧ o = .unsupported ∨ st = 3 ∧ o = SubOutcome.aborted := by
  by_cases hk : r.kind = .write
  · obtain ⟨-, -, h⟩ := by simpa only [PartFits, hk, if_true] using hfit
    rcases h with h | h | h | h <;> simp [h, hk]
  · obtain ⟨-, h⟩ := by simpa only [PartFits, hk, if_false] using hfit
    rcases h with ⟨h, -⟩ | ⟨h | h, -⟩ | ⟨h, -⟩
    · exact .inl ⟨TagRec.kind_ne_write.1 hk, h⟩
    all_goals simp [h]

/-! A part by the state of its tag (R75, R76) -/

theorem tcpl_next {s : State} (hhold : s.hold = none) (hup : s.target.link = .up) (x : Tag) (status : BitVec 8)
    (rem : BitVec 16) (data : List Byte) :
    exec (.tcpl x status rem data) s = .next (reportAll (drainTest (takePart x ⟨status, rem.toNat, data⟩ s))) := by
  refine (takes_next hhold _).trans ?_
  simp [State.targetUp, hup]

theorem takePart_of_free {s : State} {x : Tag} (h : s.tagRec x = none) (q : Part) :
    takePart x q s = appendLog (unmatchedFreeEntry x q) s := by
  simp [takePart, h]

/-- A part for a tag in BACKOFF or LAPSED is logged (R76). -/
theorem takePart_of_idle {s : State} {x : Tag} {r : TagRec} (hr : s.tagRec x = some r)
    (h : r.isBackoff = true ∨ r.isLapsed = true) (q : Part) :
    takePart x q s = appendLog (if r.isLapsed then lateEntry x r q else unmatchedBackoffEntry x r q) s := by
  rcases h with h | h
  · obtain ⟨d, e, hp⟩ := TagRec.isBackoff_iff.1 h
    simp [takePart, hr, hp, TagRec.isLapsed]
  · obtain ⟨d, hp⟩ := TagRec.isLapsed_iff.1 h
    simp [takePart, hr, hp, TagRec.isLapsed]

/-- A part for a tag in ISSUED or FILLING is checked. -/
theorem takePart_of_running {s : State} {x : Tag} {r : TagRec} {d : Tick} (hr : s.tagRec x = some r)
    (hd : r.runningDeadline = some d) (q : Part) :
    takePart x q s = if r.orphaned then orphanPart x r d q s else livePart x r d q s := by
  unfold TagRec.runningDeadline at hd
  unfold takePart
  rw [hr]
  cases hp : r.phase <;> simp_all

/-! The parts of an orphan (R20, R85) -/

theorem orphanPart_of_malformed {x : Tag} {r : TagRec} {q : Part} (d : Tick) (s : State)
    (h : ¬ PartFits r q.status q.remaining q.data) :
    orphanPart x r d q s = appendLog (malformedEntry x r q) (lapse x r s) := by
  simp [orphanPart, (checkPart_malformed_iff r q).2 h]

/-- An accepted data part writes the tag's record alone (R8, R9). -/
theorem acceptData_eq (x : Tag) (r : TagRec) (d : Tick) (n : Nat) (s : State) :
    acceptData x r d n s =
      s.setTag x (if n < r.remaining then some { r with remaining := r.remaining - n, phase := .filling d } else none) := by
  unfold acceptData freeTag
  by_cases h : r.remaining ≤ n
  · rw [if_pos h, if_neg (by omega)]
  · rw [if_neg h, if_pos (by omega)]

theorem orphanPart_of_fits {x : Tag} {r : TagRec} {st : BitVec 8} {rem : Nat} {data : List Byte} (d : Tick) (s : State)
    (h : PartFits r st rem data) :
    orphanPart x r d ⟨st, rem, data⟩ s =
      s.setTag x (if r.kind = .read ∧ st.toNat ≤ 1 ∧ data.length < r.remaining
        then some { r with remaining := r.remaining - data.length, phase := .filling d } else none) := by
  unfold orphanPart
  rcases h.status_cases with ⟨hk, hst⟩ | rfl | ⟨o, ho⟩
  · have hcode : st.toNat ≤ 1 := by rcases hst with rfl | rfl <;> decide
    simp only [checkPart_data h hk hst, acceptData_eq, hk, hcode, true_and]
  · simp only [checkPart_retry h]
    rw [if_neg (by simp)]
    rfl
  · simp only [checkPart_answer h ho]
    rw [if_neg]
    · rfl
    · rintro ⟨hk, hcode, -⟩
      rcases ho with ⟨-, hw, -⟩ | ⟨rfl, -⟩ | ⟨rfl, -⟩
      · rw [hk] at hw; cases hw
      · exact absurd hcode (by decide)
      · exact absurd hcode (by decide)

/-! The state after a stray part -/

theorem lastLogged_of_log {s a t : State} (e : LogEntry) (ht : a.timebase = s.timebase)
    (hl : t.log = (appendLog e a).log) : LastLogged s t e := by
  have h := lastLogged_appendLog e ht
  unfold LastLogged at h ⊢
  rw [hl]
  exact h

/-- What the reports leave of a state that an append has left. -/
theorem reportAll_logged_frame {s a : State} (h : { a with log := s.log, events := s.events } = s) :
    { reportAll a with log := s.log, events := s.events, ports := s.ports } = s :=
  (congrArg (fun b : State => { b with ports := s.ports }) h :)

/-- A part that is logged and has no other effect. -/
theorem loggedAlone {s : State} (hidle : s.arb.reshape = .idle) (e : LogEntry) :
    LastLogged s (reportAll (drainTest (appendLog e s))) e ∧
      (∀ h : Port, (reportAll (drainTest (appendLog e s))).port h = report (s.port h)) ∧
      { reportAll (drainTest (appendLog e s)) with log := s.log, events := s.events, ports := s.ports } = s := by
  rw [drainTest_of_idle (by simpa using hidle)]
  exact ⟨lastLogged_of_log e rfl (reportAll_log _), by simp, reportAll_logged_frame (appendLog_frame e s)⟩

/-- A lapse that is logged touches the tags, the log and the events. -/
theorem lapsedAndLogged_frame (x : Tag) (r : TagRec) (e : LogEntry) (s : State) :
    { reportAll (appendLog e (lapse x r s)) with tags := s.tags, log := s.log, events := s.events, ports := s.ports } =
      s := by
  have h := appendLog_frame e (lapse x r s)
  generalize appendLog e (lapse x r s) = a at h ⊢
  calc { reportAll a with tags := s.tags, log := s.log, events := s.events, ports := s.ports }
    _ = { { a with log := (lapse x r s).log, events := (lapse x r s).events } with
          tags := s.tags, log := s.log, events := s.events, ports := s.ports } := rfl
    _ = { lapse x r s with tags := s.tags, log := s.log, events := s.events, ports := s.ports } := by rw [h]
    _ = s := by rw [lapse_eq]; rfl

theorem taggedAlone_frame (x : Tag) (o : Option TagRec) (s : State) :
    { reportAll (s.setTag x o) with tags := s.tags, ports := s.ports } = s := rfl

/-! The parts of a live tag -/

theorem livePart_of_malformed {x : Tag} {r : TagRec} {q : Part} (d : Tick) (s : State)
    (h : ¬ PartFits r q.status q.remaining q.data) :
    livePart x r d q s = retireTag r .malformed (appendLog (malformedEntry x r q) (lapse x r s)) := by
  simp [livePart, (checkPart_malformed_iff r q).2 h]

theorem livePart_of_answer {x : Tag} {r : TagRec} {st : BitVec 8} {rem : Nat} {data : List Byte} {o : SubOutcome}
    (d : Tick) (s : State) (hfit : PartFits r st rem data)
    (ho : st = 0 ∧ r.kind = .write ∧ o = .ok ∨ st = 2 ∧ o = .unsupported ∨ st = 3 ∧ o = .aborted) :
    livePart x r d ⟨st, rem, data⟩ s = retireTag r o (freeTag x s) := by
  simp [livePart, checkPart_answer hfit ho]

theorem livePart_of_retry {x : Tag} {r : TagRec} {rem : Nat} {data : List Byte} (d : Tick) (s : State)
    (hfit : PartFits r 4 rem data) : livePart x r d ⟨4, rem, data⟩ s = takeRetry x r d s := by
  simp only [livePart, checkPart_retry hfit]

/-! The state after a retirement -/

/-- EntryRetired reads the policy, the port's slots and the response queue alone. -/
theorem EntryRetired.congr {o : SubOutcome} {h : Port} {i : Slot} {n : Nat} {s s1 t t1 : State}
    (hr : EntryRetired o h i n s1 t1) (hports : s1.ports = s.ports) (hpol : s1.policy = s.policy)
    (hslots : (t.port h).slots = (t1.port h).slots) (hresp : (t.port h).respQ = (t1.port h).respQ) :
    EntryRetired o h i n s t := by
  have hport : s1.port h = s.port h := by simp [State.port, hports]
  have hslot (j : Slot) : (t.port h).slot j = (t1.port h).slot j := by simp [PortState.slot, hslots]
  simpa only [EntryRetired, hport, portPolicy_congr hpol, hslot, hresp] using hr

/-- The subrequest of `r` has retired in `t` with outcome `o`, from a state `s1` that had the ports and the policy of
`s`. -/
structure PartRetired (r : TagRec) (o : SubOutcome) (s s1 t : State) : Prop where
  entry : EntryRetired o r.port r.slot r.sub s t
  tagRec : ∀ z, t.tagRec z = s1.tagRec z
  log : t.log = s1.log
  buffer : t.buffer = s1.buffer
  others : ∀ g, g ≠ r.port → t.port g = report (s.port g)

theorem retireTag_partRetired (r : TagRec) (o : SubOutcome) {s s1 : State} (hports : s1.ports = s.ports)
    (hpol : s1.policy = s.policy) : PartRetired r o s s1 (reportAll (drainTest (retireTag r o s1))) := by
  unfold retireTag
  exact {
    entry := (retire_entryRetired o r.port r.slot r.sub s1).congr hports hpol (by simp) (by simp)
    tagRec := fun z => by simp [State.tagRec]
    log := by simp
    buffer := by simp
    others := fun g hg => by
      have hport : s1.port g = s.port g := by simp [State.port, hports]
      simp [retire_port, hg, hport] }

end Sys2Proof.Machine

namespace Sys2Proof.Proofs

open Sys2Proof.Machine

/-- Settles O51: by the class of the tag, and for an orphan by the class of the part. -/
theorem strayCompletionsAreLogged : Obligations.StrayCompletionsAreLogged := by
  intro x status rem data s hhold hup hidle
  have hexec := tcpl_next hhold hup x status rem data
  refine ⟨fun hfree => ⟨_, hexec, ?free⟩, fun r hr hwait => ⟨_, hexec, ?waiting⟩,
    fun r d hr horph hd => ⟨fun hbad => ⟨_, hexec, ?malformed⟩, fun hfit => ⟨_, hexec, ?fits⟩⟩⟩
  case free =>
    rw [takePart_of_free hfree]
    exact loggedAlone hidle _
  case waiting =>
    rw [takePart_of_idle hr hwait]
    exact loggedAlone hidle _
  case malformed =>
    rw [takePart_of_running hr hd, if_pos horph, orphanPart_of_malformed d s hbad, drainTest_of_idle (by simpa using hidle)]
    refine ⟨by simp [lapse_eq], fun z hz => by simp [lapse_eq, tagRec_setTag_ne s _ hz],
      lastLogged_of_log _ (lapse_timebase ..) (reportAll_log _), by simp, ?_⟩
    exact lapsedAndLogged_frame ..
  case fits =>
    rw [takePart_of_running hr hd, if_pos horph, orphanPart_of_fits d s hfit, drainTest_of_idle (by simpa using hidle)]
    exact ⟨by simp, fun z hz => by simp [tagRec_setTag_ne s _ hz], by simp, taggedAlone_frame ..⟩

/-- Settles O53: by the class of the part; what a retirement does is retire_entryRetired, whatever list the record has. -/
theorem writeCompletes : Obligations.WriteCompletes := by
  intro x r d status rem data s hhold hup hr horph hd
  have hexec := tcpl_next hhold hup x status rem data
  rw [takePart_of_running hr hd, horph, if_neg Bool.false_ne_true] at hexec
  refine ⟨fun o hfit ho => ⟨_, hexec, ?answer⟩, fun hbad => ⟨_, hexec, ?malformed⟩, fun hfit hretry => ?retry⟩
  case answer =>
    rw [livePart_of_answer d s hfit ho]
    obtain ⟨hentry, htag, hlog, hbuf, hothers⟩ :=
      retireTag_partRetired r o (freeTag_ports x s) (freeTag_policy x s)
    exact ⟨by rw [htag, tagRec_freeTag_same], fun z hz => by rw [htag, tagRec_freeTag_ne s hz], hentry, hlog, hbuf, hothers⟩
  case malformed =>
    rw [livePart_of_malformed d s hbad]
    obtain ⟨hentry, htag, hlog, hbuf, hothers⟩ := retireTag_partRetired r .malformed (s := s)
      (s1 := appendLog (malformedEntry x r ⟨status, rem.toNat, data⟩) (lapse x r s)) (by simp) (by simp)
    exact ⟨by rw [htag]; simp [lapse_eq], fun z hz => by rw [htag]; simp [lapse_eq, tagRec_setTag_ne s _ hz], hentry,
      lastLogged_of_log _ (lapse_timebase ..) hlog, by rw [hbuf]; simp, hothers⟩
  case retry =>
    subst hretry
    rw [livePart_of_retry d s hfit] at hexec
    refine ⟨fun hlt => ⟨_, hexec, ?_⟩, fun hle => ⟨_, hexec, ?_⟩⟩
    · rw [takeRetry, if_pos hlt, drainTest_of_waiting (tagRec_setTag_same ..) rfl]
      exact ⟨by simp [after], fun z hz => by simp [tagRec_setTag_ne s _ hz], by simp, taggedAlone_frame ..⟩
    · rw [takeRetry, if_neg (Nat.not_lt.2 hle)]
      obtain ⟨hentry, htag, hlog, hbuf, hothers⟩ := retireTag_partRetired r .retryExhausted (s := s)
        (s1 := appendLog (retryExhaustedEntry s x r) (freeTag x s)) (by simp) (by simp)
      exact ⟨by rw [htag]; simp, fun z hz => by rw [htag]; simp [tagRec_freeTag_ne s hz], hentry,
        lastLogged_of_log (a := freeTag x s) _ rfl hlog, by rw [hbuf]; simp, hothers⟩

end Sys2Proof.Proofs
end

section
/-! SUPPORT. The counts over the tag table, and the registers that read them (01). -/

namespace Sys2Proof.Machine

/-! Sums over the ports -/

theorem sum_allPorts (f : Port → Nat) : (allPorts.map f).sum = f 0 + f 1 + f 2 + f 3 := by
  show f 0 + (f 1 + (f 2 + (f 3 + 0))) = _
  omega

theorem sum_allPorts_split (f : Port → Nat) (h : Port) :
    (allPorts.map f).sum = f h + ((allPorts.filter (· != h)).map f).sum := by
  have hperm : allPorts.Perm (h :: allPorts.filter (· != h)) := by
    revert h; decide
  exact (hperm.map f).sum_eq.trans (by simp)

/-! The counts and one allocation (R1, R2) -/

theorem freeTags_alloc {s : State} {x : Tag} (r : TagRec) (hx : s.tagRec x = none) :
    freeTags (s.setTag x (some r)) + 1 = freeTags s := by
  obtain ⟨A, B, -, hs, hset⟩ := tags_split s x
  simp only [freeTags, hset, hs, hx, List.countP_append, List.countP_cons, Option.isNone]
  simp
  omega

theorem held_alloc_ne {s : State} {x : Tag} {r : TagRec} {g : Port} (hx : s.tagRec x = none) (hg : r.port ≠ g) :
    held (s.setTag x (some r)) g = held s g := by
  obtain ⟨A, B, -, hs, hset⟩ := tags_split s x
  simp [held, hset, hs, hx, chargedTo, hg]

/-- Each tag is FREE or charged to one port. -/
theorem held_add_free (s : State) : held s 0 + held s 1 + held s 2 + held s 3 + freeTags s = 128 := by
  have hlen : s.tags.toList.length = 128 := by simp
  have count (l : List (Option TagRec)) :
      l.countP (chargedTo 0) + l.countP (chargedTo 1) + l.countP (chargedTo 2) + l.countP (chargedTo 3) +
        l.countP (·.isNone) = l.length := by
    induction l with
    | nil => rfl
    | cons a l ih =>
      simp only [List.countP_cons, List.length_cons]
      cases a with
      | none => simp [chargedTo]; omega
      | some r =>
        have : r.port = 0 ∨ r.port = 1 ∨ r.port = 2 ∨ r.port = 3 := by generalize r.port = p; revert p; decide
        rcases this with e | e | e | e <;> simp [chargedTo, e] <;> omega
  rw [← hlen]
  exact count _

theorem countP_tags_le (s : State) (f : Option TagRec → Bool) : s.tags.toList.countP f ≤ 128 := by
  have h := s.tags.toList.countP_le_length (p := f)
  simpa using h

/-! The allocation test (R3) -/

/-- An allowed allocation leaves a FREE tag more than the other ports have reserved. -/
theorem unusedOthers_lt_of_tagTest {s : State} {h : Port} (ht : tagTest s h = true) : unusedOthers s h + 1 ≤ freeTags s := by
  have hsplit : unusedAll s = unused s h + unusedOthers s h := sum_allPorts_split (unused s) h
  simp only [tagTest, Bool.and_eq_true, Bool.or_eq_true, decide_eq_true_eq] at ht
  obtain ⟨⟨-, -⟩, ⟨hfloor, hall⟩ | hothers⟩ := ht
  · have : 1 ≤ unused s h := by unfold unused; omega
    omega
  · exact hothers

/-! The registers of the counts (R24) -/

theorem field_wordOf (l : List Nat) (lo n : Nat) : field (wordOf l) lo n = l.sum % 2 ^ 32 / 2 ^ lo % 2 ^ n := by
  simp [field, wordOf]

theorem readWord_held (s : State) : readWord s 0x010 = wordOf (allPorts.map fun h => place (8 * h.val) (held s h)) := rfl

theorem readWord_free (s : State) :
    readWord s 0x011 = wordOf [place 0 (freeTags s), place 8 (lapsedTags s), place 16 (orphanedTags s)] := rfl

theorem field_readWord_held (s : State) (h : Port) : field (readWord s 0x010) (8 * h.val) 8 = held s h := by
  have hle (g : Port) : held s g ≤ 128 := countP_tags_le s _
  have h0 := hle 0
  have h1 := hle 1
  have h2 := hle 2
  have h3 := hle 3
  rw [readWord_held, field_wordOf, sum_allPorts]
  fin_cases h <;> simp [place] <;> omega

theorem field_readWord_free (s : State) :
    field (readWord s 0x011) 0 8 = freeTags s ∧ field (readWord s 0x011) 8 8 = lapsedTags s ∧
      field (readWord s 0x011) 16 8 = orphanedTags s := by
  have h0 : freeTags s ≤ 128 := countP_tags_le s _
  have h1 : lapsedTags s ≤ 128 := countP_tags_le s _
  have h2 : orphanedTags s ≤ 128 := countP_tags_le s _
  simp only [readWord_free, field_wordOf, place, List.sum_cons, List.sum_nil]
  omega

end Sys2Proof.Machine

namespace Sys2Proof.Proofs

open Sys2Proof.Machine

/-- Settles O55: an allocation to a port takes one FREE tag and leaves the held counts of the others. -/
theorem tagTestKeepsReservations : Obligations.TagTestKeepsReservations := by
  intro s h
  refine ⟨?conditions, fun x r ht hx hr => ?after⟩
  case conditions =>
    simp only [tagTest, Bool.and_eq_true, Bool.or_eq_true, decide_eq_true_eq, and_assoc, Nat.add_comm 1]
    rfl
  case after =>
    have hothers := unusedOthers_lt_of_tagTest ht
    have hfree := freeTags_alloc r hx
    have hsame : ((allPorts.filter (· != h)).map fun g => (s.portPolicy g).floor - held (s.setTag x (some r)) g) =
        (allPorts.filter (· != h)).map (unused s) :=
      List.map_congr_left fun g hg => by
        have hne : g ≠ h := by simpa using (List.mem_filter.1 hg).2
        rw [held_alloc_ne hx (hr ▸ hne.symm), unused]
    rw [hsame]
    unfold unusedOthers at hothers
    omega

/-- Settles O56: each count fits its field, and each tag is counted once. -/
theorem tagCountRegisters : Obligations.TagCountRegisters := by
  intro s
  obtain ⟨hfree, hlapsed, horphan⟩ := field_readWord_free s
  refine ⟨field_readWord_held s, hfree, hlapsed, horphan, ?sum, fun hhold w => ⟨?held, ?free⟩, fun hreset => ?reset⟩
  case sum =>
    rw [sum_allPorts]
    simp only [field_readWord_held, hfree]
    exact held_add_free s
  case held => exact takes_next hhold _
  case free => exact takes_next hhold _
  case reset =>
    have htags : s.tags.toList = List.replicate 128 none := by rw [hreset]; exact Vector.toList_replicate
    have hheld (h : Port) : held s h = 0 := by rw [held, htags, List.countP_replicate]; rfl
    have hf : freeTags s = 128 := by rw [freeTags, htags, List.countP_replicate]; rfl
    have hl : lapsedTags s = 0 := by rw [lapsedTags, htags, List.countP_replicate]; rfl
    have ho : orphanedTags s = 0 := by rw [orphanedTags, htags, List.countP_replicate]; rfl
    refine ⟨?_, ?_⟩
    · rw [readWord_held]
      simp only [hheld]
      rfl
    · rw [readWord_free, hf, hl, ho]
      rfl

end Sys2Proof.Proofs
end

section
/-! SUPPORT. The choice of an evaluation (R26, R50, R59, R62, R65): what the issue order, the heads and the round-robin
give, over plain fields. -/

namespace Sys2Proof.Machine

/-! The issue order (R26) -/

/-- The acceptance order runs from the oldest record to the youngest. -/
theorem insertByAge_sorted {p : PortState} {l : List Slot} (hl : l.Pairwise fun a b => p.slotAge b ≤ p.slotAge a)
    (x : Slot) : (insertByAge p x l).Pairwise fun a b => p.slotAge b ≤ p.slotAge a := by
  induction l with
  | nil => simp [insertByAge]
  | cons y l ih =>
    obtain ⟨hy, hl⟩ := List.pairwise_cons.1 hl
    unfold insertByAge
    split
    · refine List.pairwise_cons.2 ⟨fun z hz => ?_, ih hl⟩
      rcases List.mem_cons.1 ((insertByAge_perm p x l).mem_iff.1 hz) with rfl | hz
      · assumption
      · exact hy z hz
    · rename_i hlt
      refine List.pairwise_cons.2 ⟨fun z hz => ?_, List.pairwise_cons.2 ⟨hy, hl⟩⟩
      rcases List.mem_cons.1 hz with rfl | hz
      · omega
      · have := hy z hz
        omega

theorem acceptanceOrder_sorted (p : PortState) :
    p.acceptanceOrder.Pairwise fun a b => p.slotAge b ≤ p.slotAge a := by
  unfold PortState.acceptanceOrder
  induction allSlots.filter fun i => (p.slot i).isSome with
  | nil => exact .nil
  | cons y l ih => exact insertByAge_sorted ih y

theorem slotAge_of_some {p : PortState} {i : Slot} {r : ReqRec} (h : p.slot i = some r) :
    p.slotAge i = (p.acceptSeq - r.seq).toNat := by
  simp only [PortState.slotAge, h]
  rfl

theorem waitsForIssue_iff {p : PortState} {i : Slot} :
    p.waitsForIssue i = true ↔ ∃ r, p.slot i = some r ∧ WaitsForIssue r := by
  unfold PortState.waitsForIssue
  cases p.slot i <;> simp [ReqRec.inIssueOrder, WaitsForIssue]

/-- The head of the issue order waits, and no record that waits is older. -/
theorem firstInOrder_spec {p : PortState} {i : Slot} (h : p.firstInOrder = some i) :
    ∃ r, p.slot i = some r ∧ WaitsForIssue r ∧
      ∀ j q, p.slot j = some q → WaitsForIssue q → (p.acceptSeq - q.seq).toNat ≤ (p.acceptSeq - r.seq).toNat := by
  obtain ⟨hi, as, bs, hsplit, has⟩ := List.find?_eq_some_iff_append.1 h
  obtain ⟨r, hr, hw⟩ := waitsForIssue_iff.1 hi
  refine ⟨r, hr, hw, fun j q hq hwq => ?_⟩
  rw [← slotAge_of_some hr, ← slotAge_of_some hq]
  have hsorted := acceptanceOrder_sorted p
  rw [hsplit] at hsorted
  have hmem : j ∈ as ++ i :: bs := hsplit ▸ mem_acceptanceOrder.2 (by simp [hq])
  rcases List.mem_append.1 hmem with hj | hj
  · have := has j hj
    simp [waitsForIssue_iff.2 ⟨q, hq, hwq⟩] at this
  · rcases List.mem_cons.1 hj with rfl | hj
    · exact le_refl _
    · exact (List.pairwise_cons.1 (List.pairwise_append.1 hsorted).2.1).1 j hj

/-- A record that waits and is older than every other one that waits is the head. -/
theorem firstInOrder_of_oldest {p : PortState} {i : Slot} {r : ReqRec} (hr : p.slot i = some r) (hw : WaitsForIssue r)
    (hold : ∀ j q, j ≠ i → p.slot j = some q → WaitsForIssue q →
      (p.acceptSeq - q.seq).toNat < (p.acceptSeq - r.seq).toNat) : p.firstInOrder = some i := by
  cases hf : p.firstInOrder with
  | none =>
    have := List.find?_eq_none.1 hf i (mem_acceptanceOrder.2 (by simp [hr]))
    exact absurd (waitsForIssue_iff.2 ⟨r, hr, hw⟩) this
  | some j =>
    obtain ⟨q, hq, hwq, hmax⟩ := firstInOrder_spec hf
    by_cases hj : j = i
    · rw [hj]
    · have h1 := hold j q hj hq hwq
      have h2 := hmax i r hr hw
      omega

/-! Heads (R50, R59) -/

theorem issueHead_eq_some {s : State} {h : Port} {x : Head} : issueHead s h = some x ↔ HeadIs s h x := by
  constructor
  · intro hx
    unfold issueHead at hx
    split at hx
    · cases hx
    rename_i i hi
    split at hx
    · cases hx
    rename_i r hr
    split at hx
    · cases hx
    rename_i hk
    split at hx
    · cases hx
    rename_i a ha
    split at hx
    · rename_i c hc
      obtain ⟨y, hy, rfl⟩ := Option.map_eq_some_iff.1 hx
      exact ⟨hi, hr, hk, ha, hy, .inl ⟨rfl, hc⟩⟩
    · rename_i hc
      split at hx
      · cases hx
      rename_i m hm
      obtain ⟨y, hy, rfl⟩ := Option.map_eq_some_iff.1 hx
      exact ⟨hi, hr, hk, ha, by simpa [List.head?_eq_getElem?] using hy, .inr ⟨rfl, hc, m, hm, rfl⟩⟩
  · obtain ⟨i, r, a, c, y, f⟩ := x
    rintro ⟨hi, hr, hk, ha, hy, ⟨hf, hc⟩ | ⟨hf, hc, m, hm, hcut⟩⟩
    · dsimp only at hi hr hk ha hy hf hc
      simp [issueHead, hi, hr, hk, ha, hy, hf, hc]
    · dsimp only at hi hr hk ha hy hf hc hm hcut
      subst hcut
      simp [issueHead, List.head?_eq_getElem?, hi, hr, hk, ha, hf, hc, hm, hy]

theorem Head.reserves_iff {x : Head} : x.reserves = true ↔ x.first = true ∧ x.record.kind = .read := by
  simp [Head.reserves]

theorem blocksPass_iff {s : State} {h : Port} {n : Nat} :
    blocksPass s h n = true ↔
      (s.port h).reserved + n ≤ (s.portPolicy h).blockCeiling ∧ n ≤ (freeBlocks s).length ∧
        ∀ c, s.arb.claims.head? = some c → c.1 = h ∨ c.2 + n ≤ (freeBlocks s).length := by
  unfold blocksPass
  cases s.arb.claims <;> simp [and_assoc]

theorem eligibleButData_iff {s : State} {h : Port} {x : Head} : eligibleButData s h x = true ↔ MayGoButData s h x := by
  simp only [eligibleButData, MayGoButData, Bool.and_eq_true, Bool.or_eq_true, decide_eq_true_eq, beq_iff_eq,
    Option.isNone_iff_eq_none, and_assoc, or_assoc]
  refine and_congr (by simp [PortState.isActive]) (and_congr Iff.rfl (and_congr ?tag (and_congr ?blocks (and_congr ?drain
    ?hold))))
  case tag => exact Classical.or_iff_not_imp_left
  case blocks =>
    have hreserves := x.reserves_iff
    rw [← and_imp, ← hreserves, ← blocksPass_iff (n := (x.record.length + 63) / 64)]
    cases x.reserves <;> simp [ReqRec.blockNeed, ceilBlocks]
  case drain => cases x.first <;> simp
  case hold => exact Classical.or_iff_not_imp_left

theorem dataPresent_iff {s : State} {x : Head} : dataPresent s x = true ↔ ¬ ShortOfData s x := by
  unfold dataPresent Head.dataNeed ShortOfData
  by_cases hk : x.record.kind = .read <;> simp [hk, ceilBlocks]

theorem eligibleHead_eq_some {s : State} {h : Port} {x : Head} :
    eligibleHead s h = some x ↔ HeadIs s h x ∧ MayGoButData s h x ∧ ¬ ShortOfData s x := by
  rw [← issueHead_eq_some, ← eligibleButData_iff, ← dataPresent_iff]
  unfold eligibleHead
  cases issueHead s h with
  | none => simp
  | some y =>
    by_cases hy : y = x
    · subst hy; simp
    · simp [hy]

/-! The round-robin (R65) -/

/-- The round-robin order is the order of the distance from the pointer. -/
theorem roundRobin_sorted (p : Port) : (roundRobin p).Pairwise fun a b => (a - p).val < (b - p).val := by
  revert p; decide

theorem mem_roundRobin (p g : Port) : g ∈ roundRobin p := by
  revert p g; decide

theorem selectPort_eq_some {s : State} {h : Port} {x : Head} :
    selectPort s = some (h, x) ↔ eligibleHead s h = some x ∧
      ∀ g : Port, (g - s.arb.pointer).val < (h - s.arb.pointer).val → eligibleHead s g = none := by
  have hsorted := roundRobin_sorted s.arb.pointer
  unfold selectPort
  rw [List.findSome?_eq_some_iff]
  constructor
  · rintro ⟨as, a, bs, hsplit, ha, has⟩
    obtain ⟨y, hy, he⟩ := Option.map_eq_some_iff.1 ha
    cases he
    rw [hsplit] at hsorted
    refine ⟨hy, fun g hg => ?_⟩
    have hmem : g ∈ as ++ h :: bs := hsplit ▸ mem_roundRobin _ g
    rcases List.mem_append.1 hmem with hg' | hg'
    · simpa using has g hg'
    · rcases List.mem_cons.1 hg' with rfl | hg'
      · exact absurd hg (lt_irrefl _)
      · exact absurd ((List.pairwise_cons.1 (List.pairwise_append.1 hsorted).2.1).1 g hg') (lt_asymm hg)
  · rintro ⟨hx, hnone⟩
    obtain ⟨as, bs, hsplit⟩ := List.append_of_mem (mem_roundRobin s.arb.pointer h)
    rw [hsplit] at hsorted
    refine ⟨as, h, bs, hsplit, by simp [hx], fun g hg => ?_⟩
    have := (List.pairwise_append.1 hsorted).2.2 g hg h (by simp)
    simp [hnone g this]

end Sys2Proof.Machine
end

section
/-! SUPPORT. What an evaluation leaves before its grant (R49, R51, R57, R63), and the grant of the retry head (R62). -/

namespace Sys2Proof.Machine

/-! A port that an evaluation has examined -/

/-- An evaluation rewrites of a port what Intake keeps, no record's blocks and no WRITE. -/
structure Examined (p q : PortState) : Prop where
  intake : IntakeOnly p q
  blocks : ∀ i, (q.slot i).map (·.blocks) = (p.slot i).map (·.blocks)
  writes : ∀ i r, p.slot i = some r → r.kind = .write → q.slot i = some r

theorem Examined.refl (p : PortState) : Examined p p := ⟨.refl p, fun _ => rfl, fun _ _ h _ => h⟩

theorem Examined.trans {p q r : PortState} (h1 : Examined p q) (h2 : Examined q r) : Examined p r :=
  ⟨h1.intake.trans h2.intake, fun i => (h2.blocks i).trans (h1.blocks i),
    fun i x hx hk => h2.writes i x (h1.writes i x hx hk) hk⟩

/-- A slot rewritten to a record with the same blocks. -/
theorem blocks_setSlot {p : PortState} {i : Slot} {r q : ReqRec} (hr : p.slot i = some r) (hq : q.blocks = r.blocks)
    (j : Slot) : ((p.setSlot i (some q)).slot j).map (·.blocks) = (p.slot j).map (·.blocks) := by
  rw [slot_setSlot]
  split
  · subst j; simp [hr, hq]
  · rfl

theorem examined_enterReady {p : PortState} {i : Slot} {r : ReqRec} (hr : p.slot i = some r) (hk : r.kind ≠ .write)
    (st : HostStatus) : Examined p (enterReady i st p) := by
  refine ⟨intakeOnly_enterReady .., fun j => ?_, fun j w hw hkw => ?_⟩
  · rw [enterReady_of_some hr]
    exact blocks_setSlot (q := { r with stage := .ready, status := some st, staging := [] }) hr rfl j
  · have hne : j ≠ i := by rintro rfl; rw [hr] at hw; cases hw; exact hk hkw
    rw [enterReady_of_some hr]
    exact (slot_setSlot_ne p _ hne).trans hw

theorem examined_fenceTest (p : PortState) : Examined p (fenceTest p) := by
  refine ⟨intakeOnly_fenceTest p, fun j => ?_, fun i r hr hk => (fenceTest_keeps p).1 i r hr (by simp [hk])⟩
  refine repeated_keeps (P := fun a : PortState => (a.slot j).map (·.blocks) = (p.slot j).map (·.blocks))
    (fun a ha => ?_) 16 rfl
  rcases fenceStep_cases a with ⟨-, he⟩ | ⟨i, r, -, hr, -, -, he⟩
  · rw [he]; exact ha
  · rw [he]
    exact (blocks_setSlot
      (q := { r with stage := .ready, status := some (if a.fenceFault then .faultSeen else .ok), staging := [] })
      hr rfl j).trans ha

/-- The blocks of a port's records, read off its slots. -/
theorem blocks_of_records (p : PortState) :
    p.records.flatMap (·.blocks) =
      (p.slots.toList.map (Option.map (·.blocks))).flatMap fun o : Option (List Block) => o.getD [] := by
  unfold PortState.records
  induction p.slots.toList with
  | nil => rfl
  | cons a l ih =>
    cases a with
    | none => exact ih
    | some r => exact congrArg (r.blocks ++ ·) ih

/-! A state that an evaluation has examined -/

/-- Between `s` and `e` only the ports, the claims and the data-credit hold have changed, and the ports as Examined says. -/
structure Evaluated (s e : State) : Prop where
  frame : { e with
    ports := s.ports, arb := { e.arb with claims := s.arb.claims, dataHold := s.arb.dataHold } } = s
  ports : ∀ h, Examined (s.port h) (e.port h)

theorem Evaluated.refl (s : State) : Evaluated s s := ⟨rfl, fun _ => .refl _⟩

theorem Evaluated.trans {s a e : State} (h1 : Evaluated s a) (h2 : Evaluated a e) : Evaluated s e :=
  ⟨(congrArg (fun x : State => { x with
      ports := s.ports, arb := { x.arb with claims := s.arb.claims, dataHold := s.arb.dataHold } }) h2.frame :).trans
      h1.frame,
    fun h => (h1.ports h).trans (h2.ports h)⟩

theorem evaluated_ceilingStep (h : Port) (s : State) : Evaluated s (ceilingStep h s) := by
  unfold ceilingStep
  split
  · exact .refl s
  · rename_i i hi
    refine ⟨rfl, fun g => ?_⟩
    show Examined (s.port g) ((s.modPort h fun p => fenceTest (enterReady i .badRequest p)).port g)
    rw [port_modPort]
    split
    · subst g
      obtain ⟨r, hr, hk⟩ : ∃ r, (s.port h).slot i = some r ∧ r.kind = .read := by
        unfold overCeiling at hi
        split at hi
        · cases hi
        split at hi
        · cases hi
        split at hi
        · rename_i r hr hc
          cases hi
          exact ⟨r, hr, hc.1⟩
        · cases hi
      exact (examined_enterReady hr (by simp [hk]) _).trans (examined_fenceTest _)
    · exact .refl _

theorem evaluated_ceilingRetires (s : State) : Evaluated s (ceilingRetires s) :=
  foldl_keeps (P := Evaluated s)
    (fun _ h ha => repeated_keeps (P := Evaluated s) (fun b hb => hb.trans (evaluated_ceilingStep h b)) 16 ha) _ (.refl s)

theorem evaluated_enterClaims (s : State) : Evaluated s (enterClaims s) := ⟨rfl, fun _ => .refl _⟩

theorem evaluated_settleHold (s : State) : Evaluated s (settleHold s) := by
  unfold settleHold
  split
  · exact .refl s
  · exact ⟨rfl, fun _ => .refl _⟩

theorem evaluated_evaluate (s : State) : Evaluated s (evaluate s) :=
  ((evaluated_ceilingRetires s).trans (evaluated_enterClaims _)).trans (evaluated_settleHold _)

namespace Evaluated

variable {s e : State} (h : Evaluated s e)

include h

theorem tags : e.tags = s.tags := (congrArg State.tags h.frame :)
theorem target : e.target = s.target := (congrArg State.target h.frame :)
theorem timebase : e.timebase = s.timebase := (congrArg State.timebase h.frame :)
theorem policy : e.policy = s.policy := (congrArg State.policy h.frame :)
theorem buffer : e.buffer = s.buffer := (congrArg State.buffer h.frame :)
theorem log : e.log = s.log := (congrArg State.log h.frame :)
theorem events : e.events = s.events := (congrArg State.events h.frame :)
theorem pointer : e.arb.pointer = s.arb.pointer := (congrArg (fun a : State => a.arb.pointer) h.frame :)
theorem burst : e.arb.burst = s.arb.burst := (congrArg (fun a : State => a.arb.burst) h.frame :)
theorem tagRec (x : Tag) : e.tagRec x = s.tagRec x := by simp [State.tagRec, h.tags]
theorem portPolicy (g : Port) : e.portPolicy g = s.portPolicy g := portPolicy_congr h.policy g
theorem staging (g : Port) : (e.port g).staging = (s.port g).staging := (h.ports g).intake.staging
theorem session (g : Port) : (e.port g).session = (s.port g).session := (h.ports g).intake.session

theorem reservedBlocks : reservedBlocks e = reservedBlocks s := by
  refine List.flatMap_congr fun g _ => ?_
  rw [blocks_of_records, blocks_of_records]
  refine congrArg (List.flatMap fun o : Option (List Block) => o.getD []) (List.ext_getElem (by simp) fun n hn _ => ?_)
  have hb := (h.ports g).blocks ⟨n, by simpa using hn⟩
  simpa only [List.getElem_map, Vector.getElem_toList, PortState.slot] using hb

/-- The entry of a WRITE's tag is read as before (R62). -/
theorem entryOf_write {r : TagRec} {w : ReqRec} {y : Sub} (hw : entryOf s r = some (w, y)) (hk : w.kind = .write) :
    entryOf e r = some (w, y) := by
  unfold entryOf at hw ⊢
  cases hq : (s.port r.port).slot r.slot with
  | none => simp [hq] at hw
  | some q =>
    have hqw : q = w := by
      simp only [hq] at hw
      split at hw
      · cases hw
      · obtain ⟨z, -, he⟩ := Option.map_eq_some_iff.1 hw
        cases he; rfl
    subst hqw
    rw [(h.ports r.port).writes r.slot q hq hk]
    simpa only [hq] using hw

end Evaluated

/-! The grant of the retry head (R62) -/

theorem atOpportunity_of_open {s : State} (hup : s.target.link = .up) (htx : s.target.tx = .idle) (f : State → State) :
    atOpportunity f s = f s := by
  simp [atOpportunity, opportunityOpen, State.targetUp, hup, htx]

theorem TagRec.dataNeed_eq (r : TagRec) : r.dataNeed = if r.kind = .read then 0 else (r.length + 63) / 64 := by
  unfold TagRec.dataNeed ceilBlocks
  cases r.kind <;> rfl

theorem retryButData_iff {s : State} {t : Tag} {r : TagRec} :
    retryButData s t r = true ↔ 1 ≤ s.target.heldHdr ∧
      (r.kind = .write → s.arb.dataHold = none ∨ s.arb.dataHold = some (.tag t)) := by
  unfold retryButData
  cases hk : r.kind <;> simp

theorem retryData_of_write {s : State} {r : TagRec} {w : ReqRec} {y : Sub} (hk : r.kind = .write)
    (hw : entryOf s r = some (w, y)) : retryData s r = stagedData (s.port r.port) w y.offset r.length := by
  simp [retryData, hk, hw]

theorem retryData_of_read {s : State} {r : TagRec} (hk : r.kind = .read) : retryData s r = [] := by
  simp [retryData, hk]

theorem tagRec_grantRetry (t : Tag) (r : TagRec) (d : Tick) (s : State) (u : Tag) :
    (grantRetry t r d s).tagRec u = if u = t then some { r with phase := .issued d } else s.tagRec u :=
  tagRec_setTag s t u _

theorem retryGrantStep_of_eligible {s : State} {t : Tag} {r : TagRec} {d : Tick}
    (h : eligibleRetry (evaluate s) = some (t, r, d)) : retryGrantStep s = grantRetry t r d (evaluate s) := by
  unfold retryGrantStep
  generalize evaluate s = e at h ⊢
  simp only [h]

end Sys2Proof.Machine

namespace Sys2Proof.Proofs

open Sys2Proof.Machine

/-- Settles O59: the evaluation before the grant leaves the tags, the credits and every WRITE as they stood. -/
theorem retryGrantResendsTheHead : Obligations.RetryGrantResendsTheHead := by
  refine ⟨fun s x r d => ?eligible, fun s x r d hhold hup htx hhead => ?grant⟩
  case eligible =>
    rw [eligibleRetry_eq_some, retryHead_eq_some, retryButData_iff, TagRec.dataNeed_eq]
    cases r.kind <;> simp [and_assoc]
  case grant =>
    have he := evaluated_evaluate s
    have hexec : exec .retryGrant s = .next (reportAll (grantRetry x r d (evaluate s))) := by
      refine (takes_next hhold fun s => reportAll (atOpportunity retryGrantStep s)).trans ?_
      rw [atOpportunity_of_open hup htx, retryGrantStep_of_eligible hhead]
    refine ⟨_, hexec, ?_⟩
    generalize evaluate s = e at he hhead
    refine ⟨?_, fun z hz => ?_, by simp [grantRetry, leaveRetryQueue], he.pointer, he.burst, ?_, ?_, _, rfl, rfl, rfl, rfl, rfl,
      fun hk => retryData_of_read hk, fun w y hk hw hkw => ?_⟩
    · rw [reportAll_tagRec, tagRec_grantRetry, if_pos rfl]
    · rw [reportAll_tagRec, tagRec_grantRetry, if_neg hz, he.tagRec]
    · simp [grantRetry, spend, he.target]
    · simp [grantRetry, spend, he.target, TagRec.dataNeed_eq]
    · rw [← he.staging]
      exact retryData_of_write hk (he.entryOf_write hw hkw)

end Sys2Proof.Proofs
end

section
/-! SUPPORT. The grant of a port's issue head (R7, R53, R55, R60, R65). -/

namespace Sys2Proof.Machine

/-! The drain test and the target lane -/

theorem drainTest_target (s : State) : EffMrsOnly s.target (drainTest s).target := by
  rcases drainTest_cases s with h | ⟨m, x, y, -, -, h⟩ <;> rw [h]
  · rfl
  · rfl

/-! The free blocks (R54, R55) -/

theorem freeBlocks_sorted (s : State) : (freeBlocks s).Pairwise (· < ·) := (List.pairwise_lt_finRange 256).filter _

theorem mem_freeBlocks {s : State} {b : Block} : b ∈ freeBlocks s ↔ b ∉ reservedBlocks s := by
  simp [freeBlocks, List.mem_finRange]

/-- The first elements of a sorted list are all that lie below any of them. -/
theorem mem_take_of_lt {l : List Block} (hl : l.Pairwise (· < ·)) {n : Nat} {a b : Block} (ha : a ∈ l)
    (hb : b ∈ l.take n) (hab : a < b) : a ∈ l.take n := by
  rw [← List.take_append_drop n l] at ha hl
  rcases List.mem_append.1 ha with h | h
  · exact h
  · exact absurd hab (lt_asymm ((List.pairwise_append.1 hl).2.2 b hb a h))

/-- A reservation of `n` blocks takes the lowest-numbered free ones (R55). -/
theorem take_freeBlocks_spec {s : State} {n : Nat} (hn : n ≤ (freeBlocks s).length) :
    ((freeBlocks s).take n).length = n ∧ ((freeBlocks s).take n).Pairwise (· < ·) ∧
      ∀ b ∈ (freeBlocks s).take n,
        b ∉ reservedBlocks s ∧ ∀ a : Block, a < b → a ∉ reservedBlocks s → a ∈ (freeBlocks s).take n :=
  ⟨by simpa using hn, (freeBlocks_sorted s).sublist (List.take_sublist ..), fun b hb =>
    ⟨mem_freeBlocks.1 (List.mem_of_mem_take hb),
      fun a hab ha => mem_take_of_lt (freeBlocks_sorted s) (mem_freeBlocks.2 ha) hb hab⟩⟩

/-! A grant but for its drain test -/

/-- The tag of a first issue has been taken, where the grant takes one (R7). -/
def tagTaken (h : Port) (x : Head) (tag : Option Tag) (s : State) : State :=
  match tag, x.record.kind.tagKind with
  | some t, some k => s.setTag t (some (newTag s h x k))
  | _, _ => s

/-- The arbiter after a grant to port `h` (R58, R64, R65). -/
def grantedArb (h : Port) (w : Nat) (claim : Bool) (a : Arbiter) : Arbiter :=
  if claim then dropClaim h (advancePointer h w (endPortHold h a)) else advancePointer h w (endPortHold h a)

theorem port_with_arb_target (s : State) (a : Arbiter) (l : TargetLane) (h : Port) :
    { s with arb := a, target := l }.port h = s.port h := rfl

/-- A grant but for the drain test that follows it. -/
def granted (h : Port) (x : Head) (tag : Option Tag) (s : State) : State :=
  { (tagTaken h x tag s).modPort h fun p =>
      fenceTest (grantSlot x tag ((freeBlocks s).take x.record.blockNeed) p) with
    arb := grantedArb h (s.portPolicy h).weight x.reserves (tagTaken h x tag s).arb,
    target := spend x.dataNeed (buildTreq s h x tag) (tagTaken h x tag s).target }

theorem grantWith_eq (h : Port) (x : Head) (tag : Option Tag) (s : State) :
    grantWith h x tag s = drainTest (granted h x tag s) := rfl

theorem tagTaken_of_tag {x : Head} {k : TagKind} (hk : x.record.kind.tagKind = some k) (h : Port) (t : Tag) (s : State) :
    tagTaken h x (some t) s = s.setTag t (some (newTag s h x k)) := by
  simp only [tagTaken, hk]

theorem tagTaken_none (h : Port) (x : Head) (s : State) : tagTaken h x none s = s := rfl

theorem tagTaken_frame (h : Port) (x : Head) (tag : Option Tag) (s : State) :
    { tagTaken h x tag s with tags := s.tags } = s := by
  unfold tagTaken
  split <;> rfl

section

variable (h : Port) (x : Head) (tag : Option Tag) (s : State)

theorem tagTaken_arb : (tagTaken h x tag s).arb = s.arb := (congrArg State.arb (tagTaken_frame h x tag s) :)
theorem tagTaken_target : (tagTaken h x tag s).target = s.target := (congrArg State.target (tagTaken_frame h x tag s) :)
theorem tagTaken_port : (tagTaken h x tag s).port h = s.port h :=
  (congrArg (fun a : State => a.port h) (tagTaken_frame h x tag s) :)

theorem granted_tags : (granted h x tag s).tags = (tagTaken h x tag s).tags := rfl

theorem granted_tagRec (z : Tag) : (granted h x tag s).tagRec z = (tagTaken h x tag s).tagRec z := rfl

theorem granted_target : (granted h x tag s).target = spend x.dataNeed (buildTreq s h x tag) s.target :=
  congrArg (spend x.dataNeed (buildTreq s h x tag)) (tagTaken_target h x tag s)

theorem granted_arb : (granted h x tag s).arb = grantedArb h (s.portPolicy h).weight x.reserves s.arb :=
  congrArg (grantedArb h (s.portPolicy h).weight x.reserves) (tagTaken_arb h x tag s)

/-- What a grant leaves of the state, but for the tags, the ports, the arbiter and the target lane. -/
theorem granted_frame :
    { granted h x tag s with tags := s.tags, ports := s.ports, arb := s.arb, target := s.target } = s :=
  (congrArg (fun a : State => { a with ports := s.ports, arb := s.arb, target := s.target })
    (tagTaken_frame h x tag s) :)

theorem granted_port :
    (granted h x tag s).port h =
      fenceTest (grantSlot x tag ((freeBlocks s).take x.record.blockNeed) (s.port h)) := by
  rw [← tagTaken_port h x tag s]
  unfold granted
  rw [port_with_arb_target, port_modPort_same]

end

/-! The parts of a grant -/

/-- The pointer and the burst count move as R65 gives, whatever the claims and the hold. -/
theorem pointerMoved_of_grantedArb {h : Port} {claim : Bool} {s t : State}
    (hp : t.arb.pointer = (grantedArb h (s.portPolicy h).weight claim s.arb).pointer)
    (hb : t.arb.burst = (grantedArb h (s.portPolicy h).weight claim s.arb).burst) : PointerMoved h s t := by
  have hmove (w : Nat) (a : Arbiter) :
      (grantedArb h w claim a).pointer = (advancePointer h w (endPortHold h a)).pointer ∧
        (grantedArb h w claim a).burst = (advancePointer h w (endPortHold h a)).burst := by
    unfold grantedArb dropClaim
    split <;> exact ⟨rfl, rfl⟩
  rw [(hmove _ _).1] at hp
  rw [(hmove _ _).2] at hb
  have hptr : (endPortHold h s.arb).pointer = s.arb.pointer := by unfold endPortHold; split <;> rfl
  have hburst : (endPortHold h s.arb).burst = s.arb.burst := by unfold endPortHold; split <;> rfl
  simp only [advancePointer, hptr, hburst] at hp hb
  refine ⟨if s.arb.pointer = h then s.arb.burst + 1 else 1, rfl, fun hw => ?_, fun hw => ?_⟩
  · rw [if_pos (by simpa only [eq_comm] using hw)] at hp hb
    exact ⟨by rw [hp, Fin.val_add]; rfl, hb⟩
  · rw [if_neg (Nat.not_le.2 (by simpa only [eq_comm] using hw))] at hp hb
    exact ⟨hp, by simpa only [eq_comm] using hb⟩

theorem Evaluated.pointerMoved {s e t : State} (he : Evaluated s e) {h : Port} (hm : PointerMoved h e t) :
    PointerMoved h s t := by
  simpa only [PointerMoved, he.pointer, he.burst, he.portPolicy] using hm

theorem claims_grantedArb {h : Port} {w : Nat} {a : Arbiter} : ∀ c ∈ (grantedArb h w true a).claims, c.1 ≠ h := by
  intro c hc
  simpa using (List.mem_filter.1 (hc : c ∈ List.filter _ _)).2

theorem ReqKind.ne_post_of_tagKind {r : ReqKind} {k : TagKind} (h : r.tagKind = some k) : r ≠ .post := by
  rintro rfl; cases h

/-- The slot of a record that stays after its grant. -/
theorem slot_granted {h : Port} {x : Head} {s : State} (hk : x.record.kind ≠ .fence)
    (hstay : ¬ (x.record.kind = .post ∧ x.last = true)) (tag : Option Tag) :
    ((granted h x tag s).port h).slot x.slot =
      some (grantedRecord x tag ((freeBlocks s).take x.record.blockNeed)) := by
  rw [granted_port]
  refine (fenceTest_keeps _).1 x.slot _ ?_ hk
  rw [grantSlot, if_neg hstay]
  exact slot_setSlot_same ..

/-- After the last piece of a POST its slot is VACANT (R39, R53). -/
theorem slot_granted_vacant {h : Port} {x : Head} {s : State} (hr : (s.port h).slot x.slot = some x.record)
    (hk : x.record.kind = .post) (hl : x.last = true) (tag : Option Tag) :
    ((granted h x tag s).port h).slot x.slot = none := by
  rw [granted_port]
  refine fenceTest_vacant ?_
  rw [grantSlot, if_pos ⟨hk, hl⟩, vacate_of_some hr]
  exact slot_setSlot_same ..

theorem grantedRecord_blocks (x : Head) (tag : Option Tag) (bs : List Block) :
    (grantedRecord x tag bs).blocks = if x.reserves then bs else x.record.blocks := rfl

theorem grantedRecord_stage (x : Head) (tag : Option Tag) (bs : List Block) :
    (grantedRecord x tag bs).stage = if x.cut.next + 1 < x.cut.subs.length then .issuing else .awaiting := by
  simp [grantedRecord]

/-- ISSUE_GRANT where a port is selected. -/
theorem issueGrant_next {s : State} (hhold : s.hold = none) (hup : s.target.link = .up) (htx : s.target.tx = .idle)
    (hretry : eligibleRetry (evaluate s) = none) {h : Port} {x : Head} (hport : selectPort (evaluate s) = some (h, x)) :
    exec .issueGrant s = .next (reportAll (grantPort h x (evaluate s))) := by
  refine (takes_next hhold fun s => reportAll (atOpportunity issueGrantStep s)).trans ?_
  rw [atOpportunity_of_open hup htx]
  unfold issueGrantStep
  generalize evaluate s = e at hretry hport ⊢
  simp only [hretry, hport]

theorem dataNeed_eq (x : Head) : x.dataNeed = if x.record.kind = .read then 0 else (x.piece.length + 63) / 64 := rfl

end Sys2Proof.Machine

namespace Sys2Proof.Proofs

open Sys2Proof.Machine

/-- Settles O58: the choice by the lemmas on heads and the round-robin; the grant by what its parts do to the state that the
evaluation has left. -/
theorem issueGrantSendsTheHead : Obligations.IssueGrantSendsTheHead := by
  refine ⟨fun p i => ⟨firstInOrder_spec, fun r hr hw hold => firstInOrder_of_oldest hr hw hold⟩,
    fun s h x => ⟨issueHead_eq_some, eligibleHead_eq_some, selectPort_eq_some⟩,
    fun s h x k tag hhold hup htx hretry hport hk hfree => ?tagged,
    fun s h x hhold hup htx hretry hport hk => ?post⟩
  case tagged =>
    have he := evaluated_evaluate s
    have hexec := issueGrant_next hhold hup htx hretry hport
    obtain ⟨hhead, hmay, -⟩ := eligibleHead_eq_some.1 (selectPort_eq_some.1 hport).1
    generalize evaluate s = e at he hexec hhead hmay hfree
    obtain ⟨-, hrec, hkf, -, hpiece, -⟩ := hhead
    have hpost : x.record.kind ≠ .post := ReqKind.ne_post_of_tagKind hk
    have htag := tagTaken_of_tag hk h tag e
    have hnew : (granted h x (some tag) e).tagRec tag = some (newTag e h x k) := by
      rw [granted_tagRec, htag, tagRec_setTag_same]
    rw [grantPort, if_neg hpost, hfree, grantWith_eq, drainTest_of_waiting hnew rfl] at hexec
    obtain ⟨hnone, hlow⟩ := lowestFreeTag_eq_some hfree
    have hframe := granted_frame h x (some tag) e
    have htarget := granted_target h x (some tag) e
    have harb := granted_arb h x (some tag) e
    have hslot := slot_granted (h := h) (s := e) hkf (fun hc => hpost hc.1) (some tag)
    have hothers (z : Tag) (hz : z ≠ tag) : (granted h x (some tag) e).tagRec z = e.tagRec z := by
      rw [granted_tagRec, htag, tagRec_setTag_ne e _ hz]
    generalize granted h x (some tag) e = g at hexec hnew hframe htarget harb hslot hothers
    refine ⟨reportAll g, grantedRecord x (some tag) ((freeBlocks e).take x.record.blockNeed), _, hexec, ?hdr, ?data, ?tx,
      (he.tagRec tag).symm.trans hnone, fun z hz => (he.tagRec z).symm.trans_ne (hlow z hz), ?newTag, fun z hz => (hothers z hz).trans (he.tagRec z),
      ?slot, rfl, rfl, ?entry, grantedRecord_stage .., fun hread hfirst => ?reserve, fun hkeep => ?keep, ?pointer,
      (congrArg State.timebase hframe :).trans he.timebase, (congrArg State.policy hframe :).trans he.policy,
      (congrArg State.buffer hframe :).trans he.buffer, (congrArg State.log hframe :).trans he.log,
      (congrArg State.events hframe :).trans he.events⟩
    case hdr => simp [htarget, spend, he.target]
    case data => simp [htarget, spend, he.target, dataNeed_eq]
    case tx => simp [htarget, spend, buildTreq, stagedData, he.staging]
    case newTag => simp [hnew, newTag, he.session, he.timebase, he.portPolicy, after]
    case slot => simpa using hslot
    case entry => simp [hpiece]
    case reserve =>
      have hres : x.reserves = true := Head.reserves_iff.2 ⟨hfirst, hread⟩
      obtain ⟨-, -, -, hblocks, -, -⟩ := hmay
      obtain ⟨hlen, hsorted, hlowest⟩ := take_freeBlocks_spec (hblocks hfirst hread).2.1
      rw [he.reservedBlocks] at hlowest
      rw [grantedRecord_blocks, if_pos hres]
      refine ⟨hlen, hsorted, hlowest, ?_⟩
      rw [reportAll_arb, harb, hres]
      exact claims_grantedArb
    case keep =>
      rw [grantedRecord_blocks, if_neg]
      intro hres
      obtain ⟨hfirst, hread⟩ := Head.reserves_iff.1 hres
      rcases hkeep with hw | hf
      · rw [hread] at hw; cases hw
      · rw [hfirst] at hf; cases hf
    case pointer =>
      exact he.pointerMoved (pointerMoved_of_grantedArb (by rw [reportAll_arb, harb]) (by rw [reportAll_arb, harb]))
  case post =>
    have he := evaluated_evaluate s
    have hexec := issueGrant_next hhold hup htx hretry hport
    obtain ⟨-, hrec, hkf, -⟩ := (eligibleHead_eq_some.1 (selectPort_eq_some.1 hport).1).1
    generalize evaluate s = e at he hexec hrec
    rw [grantPort, if_pos hk, grantWith_eq] at hexec
    have hlane := drainTest_target (granted h x none e)
    rw [granted_target, he.target] at hlane
    have hheld := hlane.held
    simp only [spend, dataNeed_eq, hk, Prod.mk.injEq, reduceCtorEq, if_false] at hheld
    refine ⟨_, hexec, ?tags, hheld.1, hheld.2, ⟨buildTreq e h x none, hlane.tx, hk, rfl, rfl, rfl, ?data⟩, ?pointer,
      fun hlast => ?vacant, fun hmore => ⟨grantedRecord x none ((freeBlocks e).take x.record.blockNeed), _, ?slot, ?stage,
        rfl, rfl⟩⟩
    case tags => rw [reportAll_tags, drainTest_tags, granted_tags, tagTaken_none, he.tags]
    case data => simp [buildTreq, hk, stagedData, he.staging]
    case pointer =>
      refine he.pointerMoved (pointerMoved_of_grantedArb (claim := x.reserves) ?_ ?_)
      · rw [reportAll_arb, drainTest_pointer, granted_arb]
      · rw [reportAll_arb, drainTest_burst, granted_arb]
    case vacant =>
      rw [port_reportAll, report_slot, drainTest_port]
      exact slot_granted_vacant hrec hk (by simpa [Head.last] using hlast) none
    case slot =>
      rw [port_reportAll, report_slot, drainTest_port]
      exact slot_granted hkf (by simp [Head.last, hmore]) none
    case stage => rw [grantedRecord_stage, if_pos hmore]

end Sys2Proof.Proofs
end

/-! Proofs about host requests and request records (02): the request credits, the response queues and the host ID maps that
every step keeps, the checks of a REQUEST, the FENCE, and the RESPONSE. -/

section
/-! SUPPORT. What an event can do to a port, as far as its request credits (R29), its response queue (R43) and its host ID map
(R27) go: one relation of moves, and that each move keeps the three. -/

namespace Sys2Proof.Machine

/-! What the three rest on -/

/-- What of a port the balance of R29, the response queue of R43 and the host ID map of R27 rest on;
`creditsBalance_congr` and its neighbours tie it to them. -/
structure Books where
  active  : Bool
  slots   : Vector (Option ReqRec) 16
  respQ   : List Slot
  tx      : Option HostPacket
  reqHdr  : Nat
  reqData : Nat
  retHdr  : Nat
  retData : Nat

/-- The books of a port, read off its fields. -/
def PortState.books (p : PortState) : Books :=
  ⟨p.isActive, p.slots, p.respQ, p.tx, p.reqHdr, p.reqData, p.retHdr, p.retData⟩

section

variable {p q : PortState} {b : Books} (h : q.books = b)
include h

theorem books_active : q.isActive = b.active := congrArg Books.active h
theorem books_slots : q.slots = b.slots := congrArg Books.slots h
theorem books_respQ : q.respQ = b.respQ := congrArg Books.respQ h
theorem books_tx : q.tx = b.tx := congrArg Books.tx h
theorem books_reqHdr : q.reqHdr = b.reqHdr := congrArg Books.reqHdr h
theorem books_reqData : q.reqData = b.reqData := congrArg Books.reqData h
theorem books_retHdr : q.retHdr = b.retHdr := congrArg Books.retHdr h
theorem books_retData : q.retData = b.retData := congrArg Books.retData h

end

section

variable {p q : PortState} (h : q.slots = p.slots)
include h

theorem slot_congr (i : Slot) : q.slot i = p.slot i := by simp only [PortState.slot, h]
theorem occupied_congr : q.occupied = p.occupied := by simp only [PortState.occupied, PortState.records, h]
theorem heldStaging_congr : q.heldStaging = p.heldStaging := by simp only [PortState.heldStaging, PortState.records, h]
theorem isReady_congr (i : Slot) : q.isReady i = p.isReady i := by simp only [PortState.isReady, slot_congr h]
theorem idsOnce_congr (hp : p.idsOnce) : q.idsOnce := by simpa only [PortState.idsOnce, slot_congr h] using hp

end

theorem grantSent_congr {p q : PortState} (h : q.tx = p.tx) : q.grantSent = p.grantSent := by
  simp only [PortState.grantSent, h]

theorem responding_congr {p q : PortState} (h : q.tx = p.tx) : q.responding = p.responding := by
  simp only [PortState.responding, h]

theorem grantSent_of_idle {p : PortState} (h : p.tx = none) : p.grantSent = (0, 0) := by simp [PortState.grantSent, h]

theorem responding_of_idle {p : PortState} (h : p.tx = none) : p.responding = none := by simp [PortState.responding, h]

theorem responding_eq_some {p : PortState} {i : Slot} :
    p.responding = some i ↔ ∃ st id o d, p.tx = some (.response i st id o d) := by
  unfold PortState.responding
  cases p.tx with
  | none => simp
  | some k => cases k <;> simp

theorem mem_records {p : PortState} {r : ReqRec} : r ∈ p.records ↔ ∃ i, p.slot i = some r := by
  simp only [PortState.records, List.mem_filterMap, id_eq, exists_eq_right, PortState.slot]
  constructor
  · intro h
    obtain ⟨n, hn, he⟩ := List.getElem_of_mem h
    exact ⟨⟨n, by simpa using hn⟩, by simpa using he⟩
  · rintro ⟨i, hi⟩
    exact List.mem_iff_getElem.2 ⟨i.val, by simp, by simpa using hi⟩

/-- A port whose records are gone holds none. -/
theorem occupied_eq_zero {p : PortState} : p.occupied = 0 ↔ ∀ i, p.slot i = none := by
  rw [PortState.occupied, List.length_eq_zero_iff, List.eq_nil_iff_forall_not_mem]
  simp only [mem_records, not_exists, Option.eq_none_iff_forall_ne_some]
  exact forall_comm

theorem heldStaging_of_empty {p : PortState} (h : p.occupied = 0) : p.heldStaging = [] := by
  simp only [PortState.occupied, List.length_eq_zero_iff] at h
  simp [PortState.heldStaging, h]

theorem isReady_iff {p : PortState} {i : Slot} : p.isReady i = true ↔ ∃ r, p.slot i = some r ∧ r.stage = .ready := by
  unfold PortState.isReady
  cases p.slot i <;> simp

theorem isReady_setSlot (p : PortState) (i j : Slot) (o : Option ReqRec) :
    (p.setSlot i o).isReady j = if j = i then o.any (·.stage == .ready) else p.isReady j := by
  unfold PortState.isReady
  rw [slot_setSlot]
  by_cases h : j = i
  · cases o <;> simp [h]
  · simp [h]

theorem creditsBalance_congr {p q : PortState} (h : q.books = p.books) (hp : p.creditsBalance) : q.creditsBalance := by
  simpa only [PortState.creditsBalance, heldStaging_congr (books_slots h), occupied_congr (books_slots h),
    grantSent_congr (books_tx h), books_active h, books_reqHdr h, books_reqData h, books_retHdr h, books_retData h,
    PortState.books] using hp

theorem responsesQueued_congr {p q : PortState} (hs : q.slots = p.slots) (hq : q.respQ = p.respQ) (ht : q.tx = p.tx)
    (hp : p.responsesQueued) : q.responsesQueued := by
  simpa only [PortState.responsesQueued, isReady_congr hs, responding_congr ht, hq] using hp

/-! The moves -/

/-- A record is rewritten with what the three rest on kept: whether it is READY, its host ID and its staging blocks. -/
structure RecordStands (r q : ReqRec) : Prop where
  ready : q.stage = .ready ↔ r.stage = .ready
  mapped : q.mapped = r.mapped
  hostId : q.hostId = r.hostId
  staging : q.staging = r.staging

/-- The moves of a port: what the events of the part are made of, as far as the three go. -/
inductive PortMove : PortState → PortState → Prop where
  /-- Nothing changes that the three rest on. -/
  | quiet {p q : PortState} (h : q.books = p.books) : PortMove p q
  /-- The transmitter becomes free, of a packet that is no GRANT or of a lane without a session (R123, R126). -/
  | idle {p q : PortState} (hp : p.isActive = false ∨ p.grantSent = (0, 0))
      (h : q.books = { p.books with tx := none }) : PortMove p q
  /-- A packet that is no GRANT is sent; a RESPONSE is the queue's head (R44, R120, R129). -/
  | send {p q : PortState} {k : HostPacket} (hp : p.tx = none) (hg : ∀ a b, k ≠ .grant a b)
      (hr : ∀ i st id o d, k = .response i st id o d → p.respQ.head? = some i)
      (h : q.books = { p.books with tx := some k }) : PortMove p q
  /-- A GRANT takes the counts that wait (R122). -/
  | grantStart {p : PortState} (ha : p.isActive = true) (hp : p.tx = none) : PortMove p (startGrant p)
  /-- A GRANT has been sent (R122). -/
  | grantEnd (p : PortState) : PortMove p (endGrant p)
  /-- A RESPONSE has been sent (R45). -/
  | responseEnd (p : PortState) : PortMove p (endResponse p)
  /-- A record is rewritten in its slot. -/
  | rewrite {p : PortState} {i : Slot} {r q : ReqRec} (hr : p.slot i = some r) (h : RecordStands r q) :
      PortMove p (p.setSlot i (some q))
  /-- A record enters READY (R42, R43). -/
  | ready {p : PortState} {i : Slot} {r : ReqRec} (st : HostStatus) (hr : p.slot i = some r) (hs : r.stage ≠ .ready) :
      PortMove p (enterReady i st p)
  /-- A record that is not READY, a POST, returns to VACANT (R39, R40). -/
  | vacate {p : PortState} {i : Slot} {r : ReqRec} (hr : p.slot i = some r) (hs : r.stage ≠ .ready) :
      PortMove p (vacate i p)
  /-- A request takes a VACANT slot and its staging blocks for the credits it holds (R25, R27, R28, R30). -/
  | accept {p q : PortState} {i : Slot} {r : ReqRec} (ha : p.isActive = true) (hv : p.slot i = none)
      (hs : r.stage ≠ .ready) (hid : r.mapped = true → ∀ j x, p.slot j = some x → x.mapped = true → x.hostId ≠ r.hostId)
      (hhdr : 1 ≤ p.reqHdr) (hdata : r.staging.length ≤ p.reqData) (hnd : r.staging.Nodup)
      (hfree : ∀ b ∈ r.staging, b ∉ p.heldStaging)
      (h : q.books = { (p.setSlot i (some r)).books with
        reqHdr := p.reqHdr - 1, reqData := p.reqData - r.staging.length }) : PortMove p q
  /-- A request is dropped before it stays in a slot: its credits wait to be returned (R31, R38). -/
  | handBack {p q : PortState} {n : Nat} (ha : p.isActive = true) (hhdr : 1 ≤ p.reqHdr) (hdata : n ≤ p.reqData)
      (h : q.books = { p.books with
        reqHdr := p.reqHdr - 1, reqData := p.reqData - n, retHdr := p.retHdr + 1, retData := p.retData + n }) :
      PortMove p q
  /-- A session opens with all its credits (R29, R119). -/
  | opened {p q : PortState} (hp : p.isActive = false)
      (h : q.books = { p.books with
        active := true, tx := none, reqHdr := Config.requestSlots, reqData := Config.stagingBlocks, retHdr := 0,
        retData := 0 }) : PortMove p q
  /-- A port reset or a part reset (R46, R47). -/
  | cleared {p q : PortState} (h : q.books = PortState.reset.books) : PortMove p q

/-! The moves keep the balance (R29) -/

theorem creditsBalance_of_cleared {q : PortState} (h : q.books = PortState.reset.books) : q.creditsBalance :=
  creditsBalance_congr h (by decide +kernel)

/-- The balance of a port of which the packet being sent, no GRANT, is the only thing that changes. -/
theorem creditsBalance_setTx {p q : PortState} {k : Option HostPacket} (h : q.books = { p.books with tx := k })
    (hp : p.creditsBalance) (hk : q.grantSent = p.grantSent) : q.creditsBalance := by
  simpa only [PortState.creditsBalance, heldStaging_congr (books_slots h), occupied_congr (books_slots h), hk,
    books_active h, books_reqHdr h, books_reqData h, books_retHdr h, books_retData h, PortState.books] using hp

/-- A session's balance of a port whose counts and records are as given. -/
theorem creditsBalance_iff_of_active {p : PortState} (h : p.isActive = true) :
    p.creditsBalance ↔ p.heldStaging.Nodup ∧ p.reqHdr + p.occupied + p.retHdr + p.grantSent.1 = 16 ∧
      p.reqData + p.heldStaging.length + p.retData + p.grantSent.2 = 16 := by
  simp [PortState.creditsBalance, h]

theorem creditsBalance_iff_of_closed {p : PortState} (h : p.isActive = false) :
    p.creditsBalance ↔ p.occupied = 0 ∧ p.grantSent = (0, 0) := by
  simp only [PortState.creditsBalance, h, Bool.false_eq_true, if_false]
  exact ⟨fun h => h.2, fun h => ⟨by simp [heldStaging_of_empty h.1], h⟩⟩

/-- A port that holds a record has a session. -/
theorem PortState.creditsBalance.active {p : PortState} (h : p.creditsBalance) {i : Slot} {r : ReqRec}
    (hr : p.slot i = some r) : p.isActive = true := by
  by_contra hn
  rw [Bool.not_eq_true] at hn
  have := occupied_eq_zero.1 ((creditsBalance_iff_of_closed hn).1 h).1 i
  rw [hr] at this
  cases this

/-- The staging blocks that a slot holds. -/
def stagingAt (o : Option ReqRec) : List StageBlock := (o.map (·.staging)).getD []

/-- The counts of a port with one slot rewritten. -/
theorem setSlot_counts (p : PortState) (i : Slot) (o : Option ReqRec) :
    (p.setSlot i o).occupied + (p.slot i).toList.length = p.occupied + o.toList.length ∧
      (p.setSlot i o).heldStaging.length + (stagingAt (p.slot i)).length =
        p.heldStaging.length + (stagingAt o).length := by
  constructor
  · obtain ⟨A, B, -, h1, h2⟩ := slots_split p i
    simp only [PortState.occupied, PortState.records, h1, h2, List.filterMap_append, List.filterMap_cons, id_eq]
    cases p.slot i <;> cases o <;> simp <;> omega
  · obtain ⟨A, B, h1, h2⟩ := heldStaging_setSlot p i
    simp only [h1, h2, stagingAt, List.length_append]
    omega

/-- A slot that gives up staging blocks, or keeps them, leaves no block held twice. -/
theorem nodup_setSlot_of_sublist {p : PortState} {i : Slot} {o : Option ReqRec} (hp : p.heldStaging.Nodup)
    (h : (stagingAt o).Sublist (stagingAt (p.slot i))) : (p.setSlot i o).heldStaging.Nodup := by
  obtain ⟨A, B, h1, h2⟩ := heldStaging_setSlot p i
  rw [h1] at hp
  rw [h2]
  exact hp.sublist ((List.Sublist.append_left h A).append_right B)

/-- Blocks that no record holds join the held ones at a VACANT slot (R28). -/
theorem nodup_setSlot_of_free {p : PortState} {i : Slot} {r : ReqRec} (hp : p.heldStaging.Nodup) (hv : p.slot i = none)
    (hnd : r.staging.Nodup) (hfree : ∀ b ∈ r.staging, b ∉ p.heldStaging) :
    (p.setSlot i (some r)).heldStaging.Nodup := by
  obtain ⟨A, B, h1, h2⟩ := heldStaging_setSlot p i
  simp only [hv, Option.map_none, Option.getD_none, List.append_nil] at h1
  rw [h2]
  rw [h1] at hp hfree
  have hperm : (A ++ r.staging ++ B).Perm (r.staging ++ (A ++ B)) := by
    rw [← List.append_assoc]
    exact List.perm_append_comm.append_right B
  refine hperm.nodup_iff.2 (hnd.append hp fun b hb hab => hfree b hb hab)

/-- The balance of a port with one slot rewritten and its counts moved with it. -/
theorem creditsBalance_setSlot {p q : PortState} {i : Slot} {o : Option ReqRec} (hp : p.creditsBalance)
    (ha : p.isActive = true) (hact : q.isActive = p.isActive) (hslots : q.slots = (p.setSlot i o).slots)
    (htx : q.grantSent = p.grantSent) (hnd : (p.setSlot i o).heldStaging.Nodup)
    (hhdr : q.reqHdr + o.toList.length + q.retHdr = p.reqHdr + (p.slot i).toList.length + p.retHdr)
    (hdata : q.reqData + (stagingAt o).length + q.retData = p.reqData + (stagingAt (p.slot i)).length + p.retData) :
    q.creditsBalance := by
  obtain ⟨-, h1, h2⟩ := (creditsBalance_iff_of_active ha).1 hp
  obtain ⟨hocc, hheld⟩ := setSlot_counts p i o
  rw [creditsBalance_iff_of_active (hact.trans ha), heldStaging_congr hslots, occupied_congr hslots, htx]
  exact ⟨hnd, by omega, by omega⟩

/-- A record enters READY: its staging blocks wait to be returned as data credits (R28, R29). -/
theorem enterReady_keeps_creditsBalance {p : PortState} {i : Slot} {r : ReqRec} (st : HostStatus)
    (hr : p.slot i = some r) (hp : p.creditsBalance) : (enterReady i st p).creditsBalance := by
  have ha := hp.active hr
  have hnd := nodup_setSlot_of_sublist (i := i)
    (o := some { r with stage := .ready, status := some st, staging := [] }) hp.1 (List.nil_sublist _)
  rw [enterReady_of_some hr]
  exact creditsBalance_setSlot hp ha rfl rfl rfl hnd (by simp [hr, PortState.setSlot])
    (by simp [hr, stagingAt, PortState.setSlot]; omega)

/-- A record returns to VACANT: its credits wait to be returned (R28, R29). -/
theorem vacate_keeps_creditsBalance (p : PortState) (i : Slot) (hp : p.creditsBalance) : (vacate i p).creditsBalance := by
  cases hr : p.slot i with
  | none => simpa only [vacate, hr] using hp
  | some r =>
    rw [vacate_of_some hr]
    exact creditsBalance_setSlot (o := none) hp (hp.active hr) rfl rfl rfl
      (nodup_setSlot_of_sublist hp.1 (List.nil_sublist _)) (by simp [hr, PortState.setSlot]; omega)
      (by simp [hr, stagingAt, PortState.setSlot]; omega)

/-- A transmitter that becomes free of a packet that is no GRANT. -/
theorem creditsBalance_of_idle {p q : PortState} (hp : p.isActive = false ∨ p.grantSent = (0, 0))
    (h : q.books = { p.books with tx := none }) (hb : p.creditsBalance) : q.creditsBalance := by
  refine creditsBalance_setTx h hb ((grantSent_of_idle (books_tx h)).trans (Eq.symm ?_))
  exact hp.elim (fun hc => ((creditsBalance_iff_of_closed hc).1 hb).2) id

/-- The counts that wait are on their way (R122). -/
theorem startGrant_keeps_creditsBalance {p : PortState} (ha : p.isActive = true) (ht : p.tx = none)
    (hp : p.creditsBalance) : (startGrant p).creditsBalance := by
  obtain ⟨hnd, h1, h2⟩ := (creditsBalance_iff_of_active ha).1 hp
  rw [grantSent_of_idle ht] at h1 h2
  refine (creditsBalance_iff_of_active (p := startGrant p) ha).2 ⟨hnd, ?_, ?_⟩
  · show p.reqHdr + p.occupied + 0 + p.retHdr = 16
    omega
  · show p.reqData + p.heldStaging.length + 0 + p.retData = 16
    omega

/-- The counts on their way reach the host (R122). -/
theorem endGrant_keeps_creditsBalance {p : PortState} (hp : p.creditsBalance) : (endGrant p).creditsBalance := by
  unfold endGrant
  split
  · rename_i a b ht
    have hsent : p.grantSent = (a, b) := by simp [PortState.grantSent, ht]
    cases ha : p.isActive with
    | false =>
      exact (creditsBalance_iff_of_closed (by exact ha)).2 ⟨((creditsBalance_iff_of_closed ha).1 hp).1, rfl⟩
    | true =>
      obtain ⟨hnd, h1, h2⟩ := (creditsBalance_iff_of_active ha).1 hp
      rw [hsent] at h1 h2
      refine (creditsBalance_iff_of_active (by exact ha)).2 ⟨hnd, ?_, ?_⟩
      · show p.reqHdr + a + p.occupied + p.retHdr + 0 = 16
        omega
      · show p.reqData + b + p.heldStaging.length + p.retData + 0 = 16
        omega
  · exact hp

theorem PortMove.keeps_creditsBalance {p q : PortState} (h : PortMove p q) (hp : p.creditsBalance) : q.creditsBalance := by
  cases h with
  | quiet h => exact creditsBalance_congr h hp
  | idle ht h => exact creditsBalance_of_idle ht h hp
  | send ht hg _ h =>
    refine creditsBalance_setTx h hp ?_
    rw [grantSent_of_idle ht]
    unfold PortState.grantSent
    rw [books_tx h]
    split
    · rename_i a b hk
      exact absurd (Option.some.inj hk) (hg a b)
    · rfl
  | grantStart ha ht => exact startGrant_keeps_creditsBalance ha ht hp
  | grantEnd => exact endGrant_keeps_creditsBalance hp
  | responseEnd =>
    unfold endResponse
    split
    · rename_i i _ _ _ _ ht
      refine vacate_keeps_creditsBalance _ i (creditsBalance_of_idle
        (p := { p with respQ := p.respQ.erase i }) (.inr ?_) rfl hp)
      simp [PortState.grantSent, ht]
    · exact hp
  | rewrite hr h =>
    refine creditsBalance_setSlot hp (hp.active hr) rfl rfl rfl (nodup_setSlot_of_sublist hp.1 ?_)
      (by simp [hr, PortState.setSlot]) ?_
    · simp [hr, stagingAt, h.staging]
    · simp [hr, stagingAt, h.staging, PortState.setSlot]
  | ready st hr _ => exact enterReady_keeps_creditsBalance st hr hp
  | vacate _ _ => exact vacate_keeps_creditsBalance p _ hp
  | accept ha hv _ _ hhdr hdata hnd hfree h =>
    refine creditsBalance_setSlot hp ha (books_active h) (books_slots h) (grantSent_congr (books_tx h))
      (nodup_setSlot_of_free hp.1 hv hnd hfree) ?_ ?_
    · rw [books_reqHdr h, books_retHdr h, hv]
      show p.reqHdr - 1 + 1 + p.retHdr = p.reqHdr + 0 + p.retHdr
      omega
    · rw [books_reqData h, books_retData h, hv]
      simp only [stagingAt, Option.map_some, Option.getD_some, Option.map_none, Option.getD_none, List.length_nil]
      show p.reqData - _ + _ + p.retData = p.reqData + 0 + p.retData
      omega
  | handBack ha hhdr hdata h =>
    obtain ⟨hnd, h1, h2⟩ := (creditsBalance_iff_of_active ha).1 hp
    rw [creditsBalance_iff_of_active ((books_active h).trans ha), heldStaging_congr (books_slots h),
      occupied_congr (books_slots h), grantSent_congr (books_tx h), books_reqHdr h, books_reqData h, books_retHdr h,
      books_retData h]
    refine ⟨hnd, ?_, ?_⟩ <;> dsimp only <;> omega
  | opened hc h =>
    obtain ⟨hocc, -⟩ := (creditsBalance_iff_of_closed hc).1 hp
    rw [creditsBalance_iff_of_active (books_active h), heldStaging_congr (books_slots h),
      occupied_congr (books_slots h), grantSent_of_idle (books_tx h), books_reqHdr h, books_reqData h, books_retHdr h,
      books_retData h, hocc, heldStaging_of_empty hocc]
    exact ⟨List.nodup_nil, rfl, rfl⟩
  | cleared h => exact creditsBalance_of_cleared h

/-! The moves keep the response queue (R43) -/

/-- The transmitter is free. -/
theorem responsesQueued_of_idle {p q : PortState} (hs : q.slots = p.slots) (hq : q.respQ = p.respQ) (ht : q.tx = none)
    (hp : p.responsesQueued) : q.responsesQueued := by
  obtain ⟨h1, h2, -⟩ := hp
  refine ⟨hq ▸ h1, fun i => ?_, ?_⟩
  · rw [hq, isReady_congr hs]
    exact h2 i
  · rw [responding_of_idle ht]
    simp

/-- A slot whose record is not READY is rewritten to one that is not READY. -/
theorem responsesQueued_setSlot {p q : PortState} {i : Slot} {o : Option ReqRec} (hp : p.responsesQueued)
    (hslots : q.slots = (p.setSlot i o).slots) (hq : q.respQ = p.respQ) (ht : q.tx = p.tx)
    (ho : o.any (·.stage == .ready) = p.isReady i) : q.responsesQueued := by
  obtain ⟨h1, h2, h3⟩ := hp
  refine ⟨hq ▸ h1, fun j => ?_, ?_⟩
  · rw [hq, isReady_congr hslots, isReady_setSlot, h2]
    by_cases hj : j = i <;> simp [hj, ho]
  · rw [hq, responding_congr ht]
    exact h3

/-- A record that is not READY joins the tail of the queue as it enters READY. -/
theorem enterReady_keeps_responsesQueued {p : PortState} {i : Slot} {r : ReqRec} (st : HostStatus)
    (hr : p.slot i = some r) (hs : r.stage ≠ .ready) (hp : p.responsesQueued) : (enterReady i st p).responsesQueued := by
  obtain ⟨h1, h2, h3⟩ := hp
  have hnot : i ∉ p.respQ := by
    rw [h2, isReady_iff]
    rintro ⟨x, hx, hxs⟩
    rw [hr] at hx
    cases hx
    exact hs hxs
  rw [enterReady_of_some hr]
  refine ⟨?_, fun j => ?_, fun j hj => ?_⟩
  · exact List.nodup_append.2 ⟨h1, List.nodup_singleton i, by simp; rintro a ha rfl; exact hnot ha⟩
  · show j ∈ p.respQ ++ [i] ↔ (p.setSlot i _).isReady j = true
    rw [isReady_setSlot, List.mem_append, h2]
    by_cases hj : j = i <;> simp [hj]
  · obtain ⟨l, hl⟩ := List.head?_eq_some_iff.1 (h3 j hj)
    show (p.respQ ++ [i]).head? = some j
    rw [hl]
    rfl

/-- The head of the queue leaves it for VACANT (R45). -/
theorem endResponse_keeps_responsesQueued {p : PortState} (hp : p.responsesQueued) : (endResponse p).responsesQueued := by
  unfold endResponse
  split
  · rename_i i st id o d ht
    obtain ⟨h1, h2, h3⟩ := hp
    have hhead := h3 i (responding_eq_some.2 ⟨st, id, o, d, ht⟩)
    obtain ⟨l, hl⟩ := List.head?_eq_some_iff.1 hhead
    obtain ⟨r, hr, -⟩ := isReady_iff.1 ((h2 i).1 (by rw [hl]; simp))
    rw [vacate_of_some (p := { p with tx := none, respQ := p.respQ.erase i }) hr]
    refine ⟨h1.erase i, fun j => ?_, by simp [PortState.responding, PortState.setSlot]⟩
    show j ∈ p.respQ.erase i ↔ (p.setSlot i none).isReady j = true
    rw [isReady_setSlot, h1.mem_erase_iff, h2]
    by_cases hj : j = i <;> simp [hj]
  · exact hp

theorem isReady_of_some {p : PortState} {i : Slot} {r : ReqRec} (hr : p.slot i = some r) :
    p.isReady i = (r.stage == .ready) := by
  simp [PortState.isReady, hr]

theorem PortMove.keeps_responsesQueued {p q : PortState} (h : PortMove p q) (hp : p.responsesQueued) :
    q.responsesQueued := by
  cases h with
  | quiet h => exact responsesQueued_congr (books_slots h) (books_respQ h) (books_tx h) hp
  | idle _ h => exact responsesQueued_of_idle (books_slots h) (books_respQ h) (books_tx h) hp
  | send ht hg hr h =>
    obtain ⟨h1, h2, -⟩ := hp
    refine ⟨(books_respQ h).symm ▸ h1, fun j => ?_, fun j hj => ?_⟩
    · rw [books_respQ h, isReady_congr (p := p) (books_slots h)]
      exact h2 j
    · obtain ⟨st, id, o, d, hk⟩ := responding_eq_some.1 hj
      rw [books_tx h, Option.some.injEq] at hk
      rw [books_respQ h]
      exact hr j st id o d hk
  | grantStart _ _ =>
    obtain ⟨h1, h2, -⟩ := hp
    exact ⟨h1, h2, by simp [PortState.responding, startGrant]⟩
  | grantEnd =>
    unfold endGrant
    split
    · exact responsesQueued_of_idle (p := p) rfl rfl rfl hp
    · exact hp
  | responseEnd => exact endResponse_keeps_responsesQueued hp
  | rewrite hr h =>
    refine responsesQueued_setSlot hp rfl rfl rfl ?_
    rw [isReady_of_some hr, Option.any_some, Bool.eq_iff_iff, beq_iff_eq, beq_iff_eq, h.ready]
  | ready st hr hs => exact enterReady_keeps_responsesQueued st hr hs hp
  | vacate hr hs =>
    rw [vacate_of_some hr]
    refine responsesQueued_setSlot hp rfl rfl rfl ?_
    simp [isReady_of_some hr, hs]
  | accept _ hv hs _ _ _ _ _ h =>
    refine responsesQueued_setSlot hp (books_slots h) (books_respQ h) (books_tx h) ?_
    simp [PortState.isReady, hv, hs]
  | handBack _ _ _ h => exact responsesQueued_congr (books_slots h) (books_respQ h) (books_tx h) hp
  | opened _ h => exact responsesQueued_of_idle (books_slots h) (books_respQ h) (books_tx h) hp
  | cleared h =>
    exact responsesQueued_congr (p := PortState.reset) (books_slots h) (books_respQ h) (books_tx h) (by decide +kernel)

/-! The moves keep the host ID map (R27) -/

/-- A slot rewritten to a record whose ID, where it is mapped, no other record has in the map. -/
theorem idsOnce_setSlot {p q : PortState} {i : Slot} {o : Option ReqRec} (hp : p.idsOnce)
    (hslots : q.slots = (p.setSlot i o).slots)
    (ho : ∀ r ∈ o, r.mapped = true → ∀ j x, j ≠ i → p.slot j = some x → x.mapped = true → x.hostId ≠ r.hostId) :
    q.idsOnce := by
  intro j k r hr x hx hrm hxm heq
  simp only [slot_congr hslots, slot_setSlot, Option.mem_def] at hr hx
  by_cases hj : j = i <;> by_cases hk : k = i
  · rw [hj, hk]
  · rw [if_pos hj] at hr
    rw [if_neg hk] at hx
    exact absurd heq.symm (ho r hr hrm k x hk hx hxm)
  · rw [if_neg hj] at hr
    rw [if_pos hk] at hx
    exact absurd heq (ho x hx hxm j r hj hr hrm)
  · rw [if_neg hj] at hr
    rw [if_neg hk] at hx
    exact hp j k r hr x hx hrm hxm heq

/-- A record rewritten with its ID and its mark. -/
theorem idsOnce_rewrite {p q : PortState} {i : Slot} {r x : ReqRec} (hr : p.slot i = some r) (hm : x.mapped = r.mapped)
    (hid : x.hostId = r.hostId) (hslots : q.slots = (p.setSlot i (some x)).slots) (hp : p.idsOnce) : q.idsOnce := by
  refine idsOnce_setSlot hp hslots fun y hy hym j z hj hz hzm heq => hj ?_
  obtain rfl : x = y := Option.some.inj hy
  exact hp j i z hz r hr hzm (hm ▸ hym) (heq.trans hid)

theorem idsOnce_vacated {p q : PortState} {i : Slot} (hslots : q.slots = (p.setSlot i none).slots) (hp : p.idsOnce) :
    q.idsOnce :=
  idsOnce_setSlot hp hslots (by simp)

theorem idsOnce_vacate {p : PortState} (i : Slot) (hp : p.idsOnce) : (vacate i p).idsOnce := by
  unfold vacate
  split
  · exact hp
  · exact idsOnce_vacated (p := p) (i := i) rfl hp

theorem PortMove.keeps_idsOnce {p q : PortState} (h : PortMove p q) (hp : p.idsOnce) : q.idsOnce := by
  cases h with
  | quiet h => exact idsOnce_congr (books_slots h) hp
  | idle _ h => exact idsOnce_congr (books_slots h) hp
  | send _ _ _ h => exact idsOnce_congr (books_slots h) hp
  | grantStart _ _ => exact hp
  | grantEnd =>
    unfold endGrant
    split <;> exact hp
  | responseEnd =>
    unfold endResponse
    split
    · exact idsOnce_vacate (p := { p with tx := none, respQ := p.respQ.erase _ }) _ hp
    · exact hp
  | rewrite hr h => exact idsOnce_rewrite hr h.mapped h.hostId rfl hp
  | ready st hr _ =>
    rw [enterReady_of_some hr]
    refine idsOnce_rewrite hr ?_ ?_ rfl hp <;> rfl
  | vacate _ _ => exact idsOnce_vacate _ hp
  | accept _ _ _ hid _ _ _ _ h =>
    refine idsOnce_setSlot hp (books_slots h) fun y hy hym j x _ hx hxm => ?_
    cases hy
    exact hid hym j x hx hxm
  | handBack _ _ _ h => exact idsOnce_congr (books_slots h) hp
  | opened _ h => exact idsOnce_congr (books_slots h) hp
  | cleared h => exact idsOnce_congr (p := PortState.reset) (books_slots h) (by decide +kernel)

end Sys2Proof.Machine
end

section
/-! SUPPORT. That every operation of the model is made of the moves of a port, up to the step. -/

namespace Sys2Proof.Machine

/-! Several moves -/

abbrev PortMoves : PortState → PortState → Prop := Relation.ReflTransGen PortMove

theorem PortMoves.keeps {P : PortState → Prop} (hP : ∀ {p q}, PortMove p q → P p → P q) {p q : PortState}
    (h : PortMoves p q) (hp : P p) : P q := by
  induction h with
  | refl => exact hp
  | tail _ hm ih => exact hP hm ih

theorem PortMove.moves {p q : PortState} (h : PortMove p q) : PortMoves p q := .single h

theorem moves_quiet {p q : PortState} (h : q.books = p.books) : PortMoves p q := .single (.quiet h)

/-! Operations on a port -/

theorem books_report (p : PortState) : (report p).books = p.books :=
  (congrArg PortState.books (report_frame p) :)

theorem books_raiseNotice (bits : NoticeBits) (p : PortState) : (raiseNotice bits p).books = p.books :=
  (congrArg PortState.books (raiseNotice_frame bits p).1 :)

theorem books_cutOff (f : CutForm) (p : PortState) : (cutOff f p).books = { p.books with tx := none } := by
  unfold cutOff
  split
  · rename_i ht
    simp [PortState.books, ht]
  · rfl

theorem stage_ne_ready_of_waits {r : ReqRec} (h : WaitsForIssue r) : r.stage ≠ .ready := by
  rcases h with h | h <;> simp [h]

theorem moves_fenceStep (p : PortState) : PortMoves p (fenceStep p) := by
  rcases fenceStep_cases p with ⟨-, he⟩ | ⟨i, r, -, hr, -, hw, he⟩
  · rw [he]
  · have hs : r.stage ≠ .ready := by
      intro hs
      simp [ReqRec.inIssueOrder, hs] at hw
    refine (PortMove.ready (if p.fenceFault then .faultSeen else .ok) hr hs).moves.trans (moves_quiet ?_)
    rw [he, enterReady_of_some hr]
    rfl

theorem moves_fenceTest (p : PortState) : PortMoves p (fenceTest p) :=
  repeated_keeps (P := PortMoves p) (fun a ha => ha.trans (moves_fenceStep a)) 16 .refl

theorem RecordStands.trans {r q x : ReqRec} (h1 : RecordStands r q) (h2 : RecordStands q x) : RecordStands r x :=
  ⟨h2.ready.trans h1.ready, h2.mapped.trans h1.mapped, h2.hostId.trans h1.hostId, h2.staging.trans h1.staging⟩

theorem recordStands_recordFailure (o : SubOutcome) (a : Nat) (r : ReqRec) : RecordStands r (recordFailure o a r) := by
  unfold recordFailure
  split
  · exact ⟨.rfl, rfl, rfl, rfl⟩
  · split
    · rename_i hs _
      exact ⟨by simp [hs], rfl, rfl, rfl⟩
    · exact ⟨.rfl, rfl, rfl, rfl⟩

theorem moves_readyTest (m : ErrorMap) (i : Slot) (p : PortState) : PortMoves p (readyTest m i p) := by
  unfold readyTest
  split
  · rfl
  · rename_i r hr
    split
    · rename_i hc
      simp only [Bool.and_eq_true, beq_iff_eq] at hc
      have hrewrite : RecordStands r { r with firstFailure := failureAtReady m r } := ⟨.rfl, rfl, rfl, rfl⟩
      refine (PortMove.rewrite hr hrewrite).moves.trans (PortMove.ready _ (slot_setSlot_same ..) ?_).moves
      simp [hc.1]
    · rfl

/-- The retirement path writes into the record, and the two tests follow (R86, R92). -/
theorem moves_retireAt (m : ErrorMap) (i : Slot) (n : Nat) (o : SubOutcome) (p : PortState) :
    PortMoves p (retireAt m i n o p) := by
  unfold retireAt
  split
  · rfl
  · rename_i r hr
    split
    · rfl
    · split
      · rfl
      · rename_i c _ x _
        split
        · rfl
        · extract_lets r1 r2
          have h1 : RecordStands r r1 := ⟨.rfl, rfl, rfl, rfl⟩
          have h2 : RecordStands r r2 := by
            unfold r2
            split
            · exact h1.trans (recordStands_recordFailure ..)
            · exact h1
          exact ((PortMove.rewrite hr h2).moves.trans (moves_readyTest ..)).trans (moves_fenceTest _)

theorem moves_droppedPort {p : PortState} {i : Slot} {r : ReqRec} (hr : p.slot i = some r) (hs : r.stage ≠ .ready) :
    PortMoves p (droppedPort i p) :=
  (PortMove.vacate hr hs).moves.trans (moves_quiet (books_raiseNotice noticePostedRejected (vacate i p)))

theorem laneAfter_closed (now : Tick) (c : EndCause) : laneAfter now c ≠ .active := by cases c <;> simp [laneAfter]

theorem books_resetPort (now : Tick) (c : EndCause) (p : PortState) :
    (resetPort now c p).books = PortState.reset.books := by
  have htx : (cutOff (cutFormOf c) p).tx = none := books_tx (books_cutOff _ p)
  simp [resetPort, PortState.books, PortState.isActive, laneAfter_closed, htx, PortState.reset]

theorem books_freshPort (cut : Option (CutForm × HostPacket)) (p : PortState) :
    (freshPort cut p).books = PortState.reset.books := by
  unfold freshPort
  cases p.carrier <;> rfl

theorem isActive_eq_false {p : PortState} : p.isActive = false ↔ p.link ≠ .active := by
  simp [PortState.isActive]

/-- A lane without a session goes to another state without one. -/
theorem books_of_closed {p q : PortState} (hp : p.isActive = false) (h : { q with link := p.link }.books = p.books)
    (hq : q.link ≠ .active) : q.books = p.books := by
  have ha : q.isActive = p.isActive := by rw [hp, isActive_eq_false]; exact hq
  simp only [PortState.books, Books.mk.injEq] at h ⊢
  exact ⟨ha, h.2⟩

theorem enterDown_link (p : PortState) : (enterDown p).link ≠ .active := by
  unfold enterDown
  cases p.carrier <;> simp

theorem books_enterDown {p : PortState} (hp : p.isActive = false) : (enterDown p).books = p.books :=
  books_of_closed hp rfl (enterDown_link p)

theorem moves_detectCarrier (p : PortState) : PortMoves p (detectCarrier p) := by
  refine moves_quiet ?_
  by_cases h : p.link = .down
  · exact books_of_closed (by simp [PortState.isActive, h]) rfl (by simp [detectCarrier, h])
  · simp [detectCarrier, h, PortState.books, PortState.isActive]

theorem moves_cutOff {p : PortState} (hp : p.isActive = false) (f : CutForm) : PortMoves p (cutOff f p) :=
  (PortMove.idle (.inl hp) (books_cutOff f p)).moves

theorem isActive_cutOff (f : CutForm) (p : PortState) : (cutOff f p).isActive = p.isActive :=
  books_active (books_cutOff f p)

theorem moves_enterHoldoff {p : PortState} (hp : p.isActive = false) (now : Tick) : PortMoves p (enterHoldoff now p) :=
  (moves_cutOff hp .stopped).trans
    (moves_quiet (books_of_closed ((isActive_cutOff .stopped p).trans hp) rfl (by simp [enterHoldoff])))

theorem moves_openSession {p : PortState} (hp : p.isActive = false) (up : Bool) (mask : NoticeBits) (hdr data : Nat) :
    PortMoves p (openSession up mask hdr data p) := by
  refine (PortMove.opened hp ?_).moves
  have h := books_cutOff .closed p
  have hs := books_slots h
  have hq := books_respQ h
  have ht := books_tx h
  simp only [PortState.books, PortState.isActive, openSession] at hs hq ht ⊢
  simp [hs, hq, ht]

/-! Starts and ends of transmission (R126) -/

theorem selected_some {p : PortState} {o : Outbound} (h : p.selected = some o) : p.tx = none := by
  unfold PortState.selected at h
  split at h
  · cases h
  · rename_i hn
    rw [Bool.or_eq_true, not_or, Bool.not_eq_true, Option.isSome_eq_false_iff, Option.isNone_iff_eq_none] at hn
    exact hn.1

theorem isActive_of_selected {p : PortState} {o : Outbound} (h : p.selected = some o) (ho : o ≠ .answer) :
    p.isActive = true := by
  unfold PortState.selected at h
  split at h
  · cases h
  · split at h
    · cases h
      exact absurd rfl ho
    · split at h
      · cases h
      · simpa using ‹¬ (!p.isActive) = true›

theorem moves_startIf {p : PortState} {o : Outbound} {f : PortState → PortState}
    (h : p.selected = some o → PortMoves p (f p)) : PortMoves p (startIf o f p) := by
  unfold startIf
  split
  · exact h ‹_›
  · rfl

theorem moves_startAnswer {p : PortState} (ht : p.tx = none) : PortMoves p (startAnswer p) := by
  unfold startAnswer
  split
  · rename_i a _
    exact (PortMove.send (k := .answer a) ht (by simp) (by simp) rfl).moves
  · rfl

theorem moves_startNotice {p : PortState} (ht : p.tx = none) : PortMoves p (startNotice p) :=
  (PortMove.send (k := .notice (p.noticePending &&& p.noticeMask)) ht (by simp) (by simp) rfl).moves

theorem moves_startResponse {p : PortState} (ht : p.tx = none) (buffer : Memory) :
    PortMoves p (startResponse buffer p) := by
  unfold startResponse
  split
  · rfl
  · rename_i i hi
    split
    · rfl
    · rename_i r _
      refine (PortMove.send (k := responseOf buffer i r) ht (by simp [responseOf]) ?_ rfl).moves
      rintro j st id o d hk
      simp only [responseOf, HostPacket.response.injEq] at hk
      rw [← hk.1]
      exact hi

theorem moves_endOther (p : PortState) : PortMoves p (endOther p) := by
  unfold endOther
  split
  · rename_i ht
    exact (PortMove.idle (.inr (by simp [PortState.grantSent, ht])) rfl).moves
  · rename_i ht
    exact (PortMove.idle (.inr (by simp [PortState.grantSent, ht])) rfl).moves
  · rfl

/-! Operations on the state -/

/-- From `s` to `t` the ports have moved, and the waiting commands and the reset hold stand. -/
structure Moved (s t : State) : Prop where
  hold : t.hold = s.hold
  pending : t.pending = s.pending
  ports : ∀ h, PortMoves (s.port h) (t.port h)

theorem Moved.refl (s : State) : Moved s s := ⟨rfl, rfl, fun _ => .refl⟩

theorem Moved.trans {s t u : State} (h1 : Moved s t) (h2 : Moved t u) : Moved s u :=
  ⟨h2.hold.trans h1.hold, h2.pending.trans h1.pending, fun h => (h1.ports h).trans (h2.ports h)⟩

theorem Moved.of_ports {s t : State} (hh : t.hold = s.hold) (hp : t.pending = s.pending) (hports : t.ports = s.ports) :
    Moved s t :=
  ⟨hh, hp, fun h => by simp only [State.port, hports]; rfl⟩

/-- Beside the moves, the tags, the arbiter and the target lane are written. -/
theorem Moved.written {s t : State} (h : Moved s t) (g : Vector (Option TagRec) 128) (a : Arbiter) (l : TargetLane) :
    Moved s { t with tags := g, arb := a, target := l } :=
  ⟨h.hold, h.pending, h.ports⟩

theorem moved_modPort {s : State} {h : Port} {f : PortState → PortState} (hf : PortMoves (s.port h) (f (s.port h))) :
    Moved s (s.modPort h f) := by
  refine ⟨rfl, rfl, fun g => ?_⟩
  rw [port_modPort]
  split
  · subst g; exact hf
  · rfl

theorem moved_modPorts {s : State} {f : PortState → PortState} (hf : ∀ p, PortMoves p (f p)) : Moved s (s.modPorts f) :=
  ⟨rfl, rfl, fun h => by rw [port_modPorts]; exact hf _⟩

theorem moved_foldl {α : Type} {f : State → α → State} (hf : ∀ s a, Moved s (f s a)) (l : List α) (s : State) :
    Moved s (l.foldl f s) :=
  foldl_keeps (P := Moved s) (fun a b h => h.trans (hf a b)) l (.refl s)

theorem moved_reportAll (s : State) : Moved s (reportAll s) := moved_modPorts fun p => moves_quiet (books_report p)

theorem moved_modTarget (s : State) (f : TargetLane → TargetLane) : Moved s (s.modTarget f) := .of_ports rfl rfl rfl

theorem moved_setResult (c : BitVec 8) (r : CmdResult) (s : State) : Moved s (setResult c r s) := .of_ports rfl rfl rfl

theorem moved_setTag (s : State) (t : Tag) (r : Option TagRec) : Moved s (s.setTag t r) := .of_ports rfl rfl rfl

theorem moved_raiseEvent (e : Nat) (s : State) : Moved s (raiseEvent e s) := .of_ports rfl rfl rfl

theorem moved_appendLog (e : LogEntry) (s : State) : Moved s (appendLog e s) := .of_ports (by simp) (by simp) (by simp)

theorem moved_completeDrain (m : Mrs) (s : State) : Moved s (completeDrain m s) := .of_ports rfl rfl rfl

theorem moved_drainTest (s : State) : Moved s (drainTest s) := .of_ports (by simp) (by simp) (by simp)

theorem moved_retire (h : Port) (i : Slot) (n : Nat) (o : SubOutcome) (s : State) : Moved s (retire h i n o s) := by
  refine ⟨by simp, by simp, fun g => ?_⟩
  rw [retire_port]
  split
  · subst g; exact moves_retireAt ..
  · rfl

theorem moved_retireAll (o : SubOutcome) (es : List (Port × Slot × Nat × Tag)) (s : State) :
    Moved s (retireAll o es s) :=
  moved_foldl (fun a (e : Port × Slot × Nat × Tag) => moved_retire e.1 e.2.1 e.2.2.1 o a) es s

theorem moved_fenceTest (h : Port) (s : State) : Moved s (s.modPort h fenceTest) := moved_modPort (moves_fenceTest _)

theorem moved_portResetTaken (h : Port) (c : EndCause) (s : State) : Moved s (portResetTaken h c s) := by
  refine ⟨by simp, by simp, fun g => ?_⟩
  by_cases hg : g = h
  · subst hg
    rw [portResetTaken_port_same]
    exact (PortMove.cleared (books_resetPort ..)).moves
  · rw [portResetTaken_port_ne c s hg]

/-! Evaluations and grants -/

/-- The READ over its ceiling is QUEUED. -/
theorem overCeiling_eq_some {s : State} {h : Port} {i : Slot} (hi : overCeiling s h = some i) :
    ∃ r, (s.port h).slot i = some r ∧ r.stage = .queued := by
  unfold overCeiling at hi
  split at hi
  · cases hi
  · split at hi
    · cases hi
    · rename_i r hr
      split at hi
      · rename_i hc
        cases hi
        exact ⟨r, hr, hc.2.1⟩
      · cases hi

theorem moved_ceilingStep (h : Port) (s : State) : Moved s (ceilingStep h s) := by
  unfold ceilingStep
  split
  · exact .refl s
  · rename_i i hi
    obtain ⟨r, hr, hs⟩ := overCeiling_eq_some hi
    have hm : Moved s (s.modPort h fun p => fenceTest (enterReady i .badRequest p)) :=
      moved_modPort ((PortMove.ready .badRequest hr (by simp [hs])).moves.trans (moves_fenceTest _))
    exact hm.written ..

theorem moved_ceilingRetires (s : State) : Moved s (ceilingRetires s) :=
  moved_foldl (f := fun a h => repeated (ceilingStep h) 16 a)
    (fun a h => repeated_keeps (P := Moved a) (fun b hb => hb.trans (moved_ceilingStep h b)) 16 (.refl a)) _ s

theorem moved_enterClaims (s : State) : Moved s (enterClaims s) := .of_ports rfl rfl rfl

theorem moved_settleHold (s : State) : Moved s (settleHold s) := by
  unfold settleHold
  split
  · exact .refl s
  · exact .of_ports rfl rfl rfl

theorem moved_evaluate (s : State) : Moved s (evaluate s) :=
  ((moved_ceilingRetires s).trans (moved_enterClaims _)).trans (moved_settleHold _)

/-- The slot of a granted head is rewritten, or VACANT after a POST's last piece (R39, R53). -/
theorem moves_grantSlot {p : PortState} {x : Head} (hr : p.slot x.slot = some x.record) (hw : WaitsForIssue x.record)
    (tag : Option Tag) (blocks : List Block) : PortMoves p (grantSlot x tag blocks p) := by
  have hs := stage_ne_ready_of_waits hw
  unfold grantSlot
  split
  · exact (PortMove.vacate hr hs).moves
  · have hready : (grantedRecord x tag blocks).stage ≠ .ready := by
      rw [grantedRecord_stage]
      split <;> simp
    exact (PortMove.rewrite hr ⟨iff_of_false hready hs, rfl, rfl, rfl⟩).moves

theorem headIs_waits {s : State} {h : Port} {x : Head} (hx : HeadIs s h x) : WaitsForIssue x.record := by
  obtain ⟨hfirst, hr, -⟩ := hx
  obtain ⟨r, hr', hw, -⟩ := firstInOrder_spec hfirst
  rw [hr] at hr'
  cases hr'
  exact hw

theorem moved_grantWith {s : State} {h : Port} {x : Head} (hx : HeadIs s h x) (tag : Option Tag) :
    Moved s (grantWith h x tag s) := by
  obtain ⟨-, hr, -⟩ := id hx
  have htag : Moved s (tagTaken h x tag s) := by
    have hf := tagTaken_frame h x tag s
    exact .of_ports (congrArg State.hold hf :) (congrArg State.pending hf :) (congrArg State.ports hf :)
  have hslot : Moved (tagTaken h x tag s) ((tagTaken h x tag s).modPort h fun p =>
      fenceTest (grantSlot x tag ((freeBlocks s).take x.record.blockNeed) p)) := by
    refine moved_modPort ((moves_grantSlot ?_ (headIs_waits hx) ..).trans (moves_fenceTest _))
    rw [tagTaken_port, hr]
  have hgranted : Moved s (granted h x tag s) := (htag.trans hslot).written ..
  rw [grantWith_eq]
  exact hgranted.trans (moved_drainTest _)

theorem moved_issueGrantStep (s : State) : Moved s (issueGrantStep s) := by
  have h1 := moved_evaluate s
  unfold issueGrantStep
  dsimp only
  split
  · exact h1
  · split
    · rename_i h x hsel
      exact h1.trans (moved_grantWith (eligibleHead_eq_some.1 (selectPort_eq_some.1 hsel).1).1 _)
    · exact h1

theorem moved_retryGrantStep (s : State) : Moved s (retryGrantStep s) := by
  have h1 := moved_evaluate s
  unfold retryGrantStep
  dsimp only
  split
  · exact (h1.trans (moved_setTag ..)).written ..
  · exact h1

theorem moved_atOpportunity {f : State → State} (hf : ∀ a, Moved a (f a)) (s : State) : Moved s (atOpportunity f s) :=
  atOpportunity_keeps (P := Moved s) (fun a ha => ha.trans (hf a)) (.refl s)

/-! The target lane -/

theorem moved_dropPost {s : State} {h : Port} {i : Slot} {r : ReqRec} (hr : (s.port h).slot i = some r)
    (hs : r.stage ≠ .ready) : Moved s (dropPost h i s) := by
  unfold dropPost
  rw [hr]
  refine (moved_appendLog _ s).trans (moved_modPort ?_)
  rw [appendLog_port]
  exact moves_droppedPort hr hs

theorem moved_failRecord (h : Port) (i : Slot) (s : State) : Moved s (failRecord h i s) := by
  unfold failRecord
  split
  · exact .refl s
  · rename_i r hr
    split
    · rename_i hs
      have hs' : r.stage ≠ .ready := by simp [hs]
      have hready : Moved s (s.modPort h (enterReady i .unavailable)) :=
        moved_modPort (PortMove.ready .unavailable hr hs').moves
      split
      · exact hready.written ..
      · exact hready
      · exact moved_dropPost hr hs'
      · exact .refl s
    · exact .refl s

theorem moved_failPorts (s : State) : Moved s (failPorts s) := by
  refine moved_foldl (fun a h => ?_) _ s
  split
  · exact moved_foldl (fun b i => (moved_failRecord h i b).trans (moved_fenceTest h _)) _ a
  · exact .refl a

theorem isStranded_stage {m : Mrs} {r : ReqRec} (h : isStranded m r = true) : r.stage = .issuing := by
  simp only [isStranded, Bool.and_eq_true, beq_iff_eq] at h
  exact h.1

theorem moved_endStranded (m : Mrs) (h : Port) (i : Slot) (s : State) : Moved s (endStranded m h i s) := by
  unfold endStranded
  split
  · exact .refl s
  · rename_i r hr
    split
    · rename_i hm
      split
      · exact (moved_dropPost hr (by simp [isStranded_stage hm])).trans (moved_fenceTest h _)
      · exact moved_modPort (((PortMove.rewrite hr (recordStands_recordFailure ..)).moves.trans
          (moves_readyTest ..)).trans (moves_fenceTest _))
    · exact .refl s

theorem moved_endAllStranded (m : Mrs) (s : State) : Moved s (endAllStranded m s) :=
  moved_foldl (fun a h => moved_foldl (fun b i => moved_endStranded m h i b) _ a) _ s

theorem moved_raiseNotice (h : Port) (bits : NoticeBits) (s : State) : Moved s (s.modPort h (raiseNotice bits)) :=
  moved_modPort (moves_quiet (books_raiseNotice ..))

theorem moved_raiseNotices (bits : NoticeBits) (s : State) : Moved s (s.modPorts (raiseNotice bits)) :=
  moved_modPorts fun p => moves_quiet (books_raiseNotice bits p)

theorem moved_releaseAll (s : State) : Moved s (releaseAll s) := by
  have h := moved_retireAll .linkDown (liveEntries s) s
  unfold releaseAll
  dsimp only
  split
  · exact h.written ..
  · exact (h.written ..).trans (moved_completeDrain ..)

theorem moved_targetLoss (c : DownCause) (s : State) : Moved s (targetLoss c s) := by
  unfold targetLoss
  exact ((((moved_modTarget ..).trans (moved_releaseAll _)).trans (moved_failPorts _)).trans (moved_raiseNotices ..)).trans
    (moved_appendLog ..)

theorem moved_loseTarget (s : State) : Moved s (loseTarget s) := by
  have h1 := moved_modTarget s fun l => { l with carrier := false }
  unfold loseTarget
  dsimp only
  split
  · exact h1.trans (moved_modTarget ..)
  · exact h1.trans (moved_targetLoss ..)
  · exact h1
  · exact h1

theorem moved_downWith (c : DownCause) (s : State) : Moved s (downWith c s) := by
  unfold downWith
  split
  · exact moved_modTarget ..
  · exact moved_targetLoss c s
  · exact .refl s
  · exact .refl s

theorem moved_takeTrainAck (hdr data size : Nat) (s : State) : Moved s (takeTrainAck hdr data size s) := by
  unfold takeTrainAck
  split
  · split
    · unfold bringUp
      exact ((((moved_modTarget ..).trans (moved_endAllStranded ..)).trans (moved_raiseNotices ..)).trans
        (moved_modTarget ..)).trans (moved_drainTest _)
    · exact moved_modTarget ..
  · exact .refl s
  · exact .refl s
  · exact .refl s

theorem moved_takeTcredit (hdr data : Nat) (s : State) : Moved s (takeTcredit hdr data s) := by
  unfold takeTcredit
  split
  · exact moved_modTarget ..
  · exact moved_targetLoss ..

theorem moved_detectTarget (s : State) : Moved s (detectTarget s) := by
  unfold detectTarget
  dsimp only
  split
  · exact (moved_modTarget ..).trans (moved_modTarget ..)
  · exact moved_modTarget ..

theorem moved_takeTrainEnd (s : State) : Moved s (takeTrainEnd s) := by
  unfold takeTrainEnd
  split
  · split
    · exact moved_modTarget ..
    · exact .refl s
  · exact .refl s

theorem moved_endTargetHoldoff (s : State) : Moved s (endTargetHoldoff s) := by
  unfold endTargetHoldoff
  split
  · split
    · split <;> exact moved_modTarget ..
    · exact .refl s
  · exact .refl s

/-! Completion parts -/

theorem moved_lapse (t : Tag) (r : TagRec) (s : State) : Moved s (lapse t r s) := by
  rw [lapse_eq]
  exact moved_setTag ..

theorem moved_acceptData (t : Tag) (r : TagRec) (d : Tick) (n : Nat) (s : State) : Moved s (acceptData t r d n s) := by
  rw [acceptData_eq]
  exact moved_setTag ..

theorem entryOf_eq_some {s : State} {r : TagRec} {q : ReqRec} {x : Sub} (h : entryOf s r = some (q, x)) :
    (s.port r.port).slot r.slot = some q := by
  unfold entryOf at h
  split at h
  · cases h
  · split at h
    · cases h
    · obtain ⟨y, -, he⟩ := Option.map_eq_some_iff.1 h
      cases he
      assumption

theorem moved_placeData (r : TagRec) (poisoned : Bool) (data : List Byte) (s : State) :
    Moved s (placeData r poisoned data s) := by
  unfold placeData
  split
  · exact .refl s
  · rename_i q x hq
    extract_lets s1
    have h1 : Moved s s1 := .of_ports rfl rfl rfl
    split
    · have hmark : RecordStands q (markPoisoned r.sub (partOffset x r) q) := ⟨.rfl, rfl, rfl, rfl⟩
      exact h1.trans (moved_modPort (PortMove.rewrite (entryOf_eq_some hq :) hmark).moves)
    · exact h1

theorem moved_livePart (t : Tag) (r : TagRec) (d : Tick) (q : Part) (s : State) : Moved s (livePart t r d q s) := by
  unfold livePart
  split
  · exact ((moved_lapse ..).trans (moved_appendLog ..)).trans (moved_retire ..)
  · unfold takeRetry
    split
    · exact moved_setTag ..
    · exact ((moved_setTag ..).trans (moved_appendLog ..)).trans (moved_retire ..)
  · exact (moved_setTag ..).trans (moved_retire ..)
  · have haccept := (moved_placeData r ‹_› q.data s).trans (moved_acceptData t r d q.data.length _)
    dsimp only
    split
    · exact haccept.trans (moved_retire ..)
    · exact haccept

theorem moved_orphanPart (t : Tag) (r : TagRec) (d : Tick) (q : Part) (s : State) : Moved s (orphanPart t r d q s) := by
  unfold orphanPart
  split
  · exact (moved_lapse ..).trans (moved_appendLog ..)
  · exact moved_setTag ..
  · exact moved_setTag ..
  · exact moved_acceptData ..

theorem moved_takePart (t : Tag) (q : Part) (s : State) : Moved s (takePart t q s) := by
  unfold takePart
  split
  · exact moved_appendLog ..
  · rename_i r _
    have hrun (d : Tick) : Moved s (if r.orphaned then orphanPart t r d q s else livePart t r d q s) := by
      split
      · exact moved_orphanPart ..
      · exact moved_livePart ..
    split
    · exact moved_appendLog ..
    · exact moved_appendLog ..
    · exact hrun _
    · exact hrun _

/-! Host lanes and sessions -/

theorem moved_attachHandshake {s : State} {h : Port} (hp : (s.port h).isActive = false) (mask : NoticeBits)
    (hdr data : Nat) : Moved s (attachHandshake h mask hdr data s) := by
  unfold attachHandshake
  split
  · exact moved_modPort (moves_quiet (books_of_closed hp rfl (by simp)))
  · exact (moved_modPort (moves_openSession hp ..)).trans (moved_raiseEvent ..)

theorem isActive_of_waiting {p : PortState} (h : p.link = .waiting) : p.isActive = false := by
  simp [PortState.isActive, h]

theorem isActive_of_fenced {p : PortState} (h : p.link = .fenced) : p.isActive = false := by
  simp [PortState.isActive, h]

theorem moved_takeAttach (h : Port) (mask : NoticeBits) (hdr data : Nat) (s : State) :
    Moved s (takeAttach h mask hdr data s) := by
  unfold takeAttach
  split
  · exact moved_attachHandshake (isActive_of_waiting ‹_›) ..
  · exact moved_attachHandshake (isActive_of_fenced ‹_›) ..
  · refine (moved_portResetTaken h .retrain s).trans (moved_attachHandshake (isActive_of_waiting ?_) ..)
    rw [portResetTaken_port_same]
    rfl
  · exact .refl s
  · exact .refl s

theorem moved_enterHoldoff {s : State} {h : Port} (hp : (s.port h).isActive = false) :
    Moved s (s.modPort h (enterHoldoff s.timebase)) :=
  moved_modPort (moves_enterHoldoff hp _)

theorem moved_portResetOnLane (h : Port) (s : State) : Moved s (portResetOnLane h s) := by
  unfold portResetOnLane
  split
  · exact moved_portResetTaken ..
  · exact moved_enterHoldoff (isActive_of_waiting ‹_›)
  · exact moved_enterHoldoff (isActive_of_fenced ‹_›)
  · exact .refl s
  · exact .refl s

theorem moved_disableLane (h : Port) (s : State) : Moved s (disableLane h s) := by
  unfold disableLane
  split
  · exact moved_portResetTaken ..
  · exact moved_enterHoldoff (isActive_of_fenced ‹_›)
  · exact .refl s
  · exact .refl s
  · exact .refl s

theorem moved_failCheck (h : Port) (s : State) : Moved s (failCheck h s) := by
  unfold failCheck
  split
  · exact moved_enterHoldoff (isActive_of_waiting ‹_›)
  · exact moved_enterHoldoff (isActive_of_fenced ‹_›)
  · exact moved_portResetTaken ..
  · exact .refl s
  · exact .refl s

theorem moved_carrier (h : Port) (b : Bool) (s : State) : Moved s (s.modPort h fun p => { p with carrier := b }) :=
  moved_modPort (moves_quiet rfl)

/-- A lane without a session loses its carrier (R117). -/
theorem moves_carrierLost {p : PortState} (hp : p.isActive = false) : PortMoves p (enterDown (cutOff .closed p)) :=
  (moves_cutOff hp .closed).trans (moves_quiet (books_enterDown ((isActive_cutOff .closed p).trans hp)))

theorem moved_loseCarrier (h : Port) (s : State) : Moved s (loseCarrier h s) := by
  have h1 := moved_carrier h false s
  have hclosed (hp : (s.port h).isActive = false) :
      Moved (s.modPort h fun p => { p with carrier := false })
        ((s.modPort h fun p => { p with carrier := false }).modPort h fun p => enterDown (cutOff .closed p)) :=
    moved_modPort (moves_carrierLost (by rw [port_modPort_same]; exact hp))
  unfold loseCarrier
  dsimp only
  split
  · exact h1.trans (hclosed (isActive_of_waiting ‹_›))
  · exact h1.trans (hclosed (isActive_of_fenced ‹_›))
  · exact h1.trans (moved_portResetTaken ..)
  · exact h1
  · exact h1

theorem moved_endHoldoff (h : Port) (s : State) : Moved s (endHoldoff h s) := by
  unfold endHoldoff
  split
  · rename_i hd
    refine moved_modPort (moves_quiet (books_enterDown ?_))
    rw [isActive_eq_false]
    intro hl
    simp [holdoffDue, hl] at hd
  · exact .refl s

theorem moved_takeStallExpiry (h : Port) (s : State) : Moved s (takeStallExpiry h s) := by
  unfold takeStallExpiry
  split
  · have hlog (e : LogEntry) : Moved s (raiseEvent (eventStall h) (appendLog e s)) :=
      (moved_appendLog ..).trans (moved_raiseEvent ..)
    dsimp only
    split
    · exact (hlog _).trans (moved_modPort (moves_quiet rfl))
    · exact (hlog _).trans (moved_portResetTaken ..)
    · exact (hlog _).trans (moved_portResetTaken ..)
  · exact .refl s

theorem books_acknowledge (bits : NoticeBits) (p : PortState) : (acknowledge bits p).books = p.books := by
  unfold acknowledge; split <;> rfl

theorem books_stallTick (w : Nat) (p : PortState) : (stallTick w p).books = p.books := by
  unfold stallTick
  dsimp only
  split <;> rfl

/-! Tags and time -/

theorem moved_expireTag (t : Tag) (s : State) : Moved s (expireTag t s) := by
  unfold expireTag
  split
  · exact .refl s
  · dsimp only
    split
    · exact .refl s
    · exact .of_ports rfl rfl rfl
    · exact (moved_lapse ..).trans (moved_appendLog ..)
    · exact (moved_lapse ..).trans (moved_appendLog ..)

theorem moved_takeDeadlines (s : State) : Moved s (takeDeadlines s) :=
  ((moved_foldl (fun a t => moved_expireTag t a) _ s).trans (moved_retireAll ..)).trans (moved_drainTest _)

theorem moved_takeBackoffEnds (s : State) : Moved s (takeBackoffEnds s) := by
  refine moved_foldl (fun a t => ?_) _ s
  unfold endBackoff
  split
  · exact .refl a
  · split
    · exact .of_ports rfl rfl rfl
    · exact .refl a

theorem moved_takeQuarantineEnds (s : State) : Moved s (takeQuarantineEnds s) :=
  moved_foldl (fun a t => moved_setTag a t none) _ s

theorem moved_takeDrainLimit (s : State) : Moved s (takeDrainLimit s) := by
  unfold takeDrainLimit
  split
  · exact .refl s
  · split
    · exact .of_ports (by simp) (by simp) (by simp)
    · exact .refl s

theorem moved_closeTick (s : State) : Moved s (closeTick s) :=
  ((((((((moved_takeDeadlines s).trans (moved_reportAll _)).trans (moved_takeBackoffEnds _)).trans
    (moved_takeQuarantineEnds _)).trans (moved_takeDrainLimit _)).trans
    (moved_foldl (fun a h => moved_takeStallExpiry h a) allPorts _)).trans
    (moved_foldl (fun a h => moved_endHoldoff h a) allPorts _)).trans (moved_endTargetHoldoff _)).trans
    (moved_takeTrainEnd _)

theorem moved_advance (s : State) : Moved s (advance s) :=
  Moved.trans (t := { s with timebase := s.timebase + 1 }) (.of_ports rfl rfl rfl)
    (moved_foldl (f := fun a h => a.modPort h (stallTick (s.portPolicy h).stallWindow))
      (fun _ _ => moved_modPort (moves_quiet (books_stallTick ..))) allPorts _)

/-! Commands of the management port -/

theorem moved_startDrain (size : Mrs) (s : State) : Moved s (startDrain size s) :=
  ((Moved.refl s).written ..).trans (moved_drainTest _)

theorem moved_commandReshape (b : BitVec 16) (s : State) : Moved s (commandReshape b s) := by
  unfold commandReshape
  split
  · exact moved_setResult ..
  · split
    · exact moved_setResult ..
    · exact (moved_startDrain ..).trans (moved_setResult ..)

theorem moved_commandPortReset (a : BitVec 8) (s : State) : Moved s (commandPortReset a s) := by
  unfold commandPortReset
  split
  · exact moved_setResult ..
  · exact (moved_portResetOnLane ..).trans (moved_setResult ..)

theorem moved_commandTargetReset (s : State) : Moved s (commandTargetReset s) :=
  (moved_downWith ..).trans (moved_setResult ..)

theorem moved_commandTableFetch (a : BitVec 8) (b : BitVec 16) (s : State) : Moved s (commandTableFetch a b s) := by
  unfold commandTableFetch
  split <;> exact .of_ports rfl rfl rfl

theorem moved_noticeChange (h : Port) (b : Bool) (s : State) : Moved s (noticeChange h b s) := by
  unfold noticeChange
  split
  · exact moved_raiseNotice ..
  · exact .refl s

theorem moved_commitTable {s t : State} {x : TableIndex} (ht : commitTable x s = some t) : Moved s t := by
  cases x with
  | port h =>
    simp only [commitTable, commitPort] at ht
    split at ht
    · cases ht
    · rename_i p _
      split at ht
      · cases ht
        have h1 : Moved s (setPortPolicy h p s) := .of_ports rfl rfl rfl
        refine Moved.trans ?_ (moved_noticeChange ..)
        split
        · exact h1
        · exact h1.trans (moved_disableLane ..)
      · cases ht
  | window i =>
    simp only [commitTable, commitWindow] at ht
    split at ht
    · cases ht
      have h1 : Moved s (setWindow i (stagedWindow s.mgmt.staging) s) := .of_ports rfl rfl rfl
      exact h1.trans (moved_noticeChange ..)
    · cases ht
  | global =>
    obtain ⟨g, -, rfl⟩ := Option.map_eq_some_iff.1 ht
    exact .of_ports rfl rfl rfl

theorem moved_commandTableCommit (a : BitVec 8) (b : BitVec 16) (s : State) : Moved s (commandTableCommit a b s) := by
  unfold commandTableCommit
  split
  · exact moved_setResult ..
  · split
    · exact moved_setResult ..
    · exact (moved_commitTable ‹_›).trans (moved_setResult ..)

end Sys2Proof.Machine
end

section
/-! SUPPORT. A REQUEST up to check 2 (R25, R28, R30, R31), and what it is made of as moves of its port. -/

namespace Sys2Proof.Machine

/-! Free slots and free staging blocks (R25, R28) -/

theorem slot_vacantSlot {p : PortState} {i : Slot} (h : p.vacantSlot = some i) : p.slot i = none :=
  Option.isNone_iff_eq_none.1 (List.find?_some h :)

/-- Without a VACANT slot sixteen are occupied. -/
theorem occupied_of_vacantSlot_none {p : PortState} (h : p.vacantSlot = none) : p.occupied = 16 := by
  have hall : ∀ o ∈ p.slots.toList, (id o).isSome = true := by
    intro o ho
    obtain ⟨n, hn, rfl⟩ := List.getElem_of_mem ho
    have hn' : n < 16 := by simpa using hn
    have := List.find?_eq_none.1 h ⟨n, hn'⟩ (List.mem_finRange _)
    simpa [PortState.slot, Option.isSome_iff_ne_none] using this
  have := List.filterMap_length_eq_length.2 hall
  simpa [PortState.occupied, PortState.records] using this

theorem freeStaging_nodup (p : PortState) : p.freeStaging.Nodup := (List.nodup_finRange 16).filter _

theorem mem_freeStaging {p : PortState} {b : StageBlock} : b ∈ p.freeStaging ↔ b ∉ p.heldStaging := by
  simp [PortState.freeStaging, List.mem_finRange]

/-- The free and the held staging blocks are sixteen, while none is held twice. -/
theorem length_freeStaging {p : PortState} (h : p.heldStaging.Nodup) :
    p.freeStaging.length + p.heldStaging.length = 16 := by
  have hperm : (p.freeStaging ++ p.heldStaging).Perm allStageBlocks := by
    refine (List.perm_ext_iff_of_nodup ?_ (List.nodup_finRange 16)).2 fun b => ?_
    · exact (freeStaging_nodup p).append h fun b hb => mem_freeStaging.1 hb
    · simp only [List.mem_append, mem_freeStaging, List.mem_finRange, iff_true]
      exact (Classical.em _).symm
  simpa using hperm.length_eq

/-! The parts of a REQUEST -/

/-- A REQUEST that carries `n` bytes passes check 1 and takes slot `i` and the staging blocks `blocks` (R25, R28, R30). -/
structure Taken (p : PortState) (n : Nat) (i : Slot) (blocks : List StageBlock) : Prop where
  active : p.isActive = true
  hdr : 1 ≤ p.reqHdr
  data : ceilBlocks n ≤ p.reqData
  slot : p.vacantSlot = some i
  blocks_eq : blocks = p.freeStaging.take (ceilBlocks n)
  length : blocks.length = ceilBlocks n

theorem Taken.nodup {p : PortState} {n : Nat} {i : Slot} {blocks : List StageBlock} (h : Taken p n i blocks) :
    blocks.Nodup :=
  h.blocks_eq ▸ (freeStaging_nodup p).sublist (List.take_sublist ..)

theorem Taken.free {p : PortState} {n : Nat} {i : Slot} {blocks : List StageBlock} (h : Taken p n i blocks)
    {b : StageBlock} (hb : b ∈ blocks) : b ∉ p.heldStaging :=
  mem_freeStaging.1 (List.mem_of_mem_take (h.blocks_eq ▸ hb))

theorem creditCheck_iff {p : PortState} {n : Nat} : creditCheck p n = true ↔ 1 ≤ p.reqHdr ∧ ceilBlocks n ≤ p.reqData := by
  simp [creditCheck]

/-- A REQUEST that passes check 1 goes on to its other checks. -/
theorem execRequest_of_taken {s : State} (hhold : s.hold = none) {h : Port} {kind : BitVec 8} {id : HostId}
    {cls : BitVec 2} {addr : BitVec 48} {len : BitVec 16} {data : List Byte} {i : Slot} {blocks : List StageBlock}
    (ht : Taken (s.port h) data.length i blocks) :
    exec (.request h kind id cls addr len data) s =
      .next (reportAll (intake h kind id cls addr len.toNat data i blocks s)) := by
  obtain ⟨hact, hhdr, hdata, hslot, rfl, hlen⟩ := ht
  have hin : s.inHold = false := by simp [State.inHold, hhold]
  have hcredit : creditCheck (s.port h) data.length = true := creditCheck_iff.2 ⟨hhdr, hdata⟩
  simp only [exec, execRequest, hin, hact, hcredit, hslot, hlen, Bool.not_true, Bool.or_false, Bool.false_eq_true,
    if_false, lt_irrefl]

/-- A REQUEST passes check 1 while Intake lacks what its credits stand for: a state that the balance of R29 rules out. -/
structure Short (p : PortState) (n : Nat) : Prop where
  active : p.isActive = true
  hdr : 1 ≤ p.reqHdr
  data : ceilBlocks n ≤ p.reqData
  lacks : p.vacantSlot = none ∨ p.freeStaging.length < ceilBlocks n

/-- What a REQUEST can do: nothing outside ACTIVE, a credit violation, what follows check 1, or a fault where Intake is short
(log 20). -/
theorem execRequest_cases (h : Port) (kind : BitVec 8) (id : HostId) (cls : BitVec 2) (addr : BitVec 48)
    (len : BitVec 16) (data : List Byte) (s : State) :
    exec (.request h kind id cls addr len data) s = .next s ∨
      exec (.request h kind id cls addr len data) s = .next (reportAll (creditViolation h s)) ∨
      (∃ i blocks, Taken (s.port h) data.length i blocks ∧
        exec (.request h kind id cls addr len data) s =
          .next (reportAll (intake h kind id cls addr len.toNat data i blocks s))) ∨
      s.hold = none ∧ Short (s.port h) data.length ∧
        ∃ f, exec (.request h kind id cls addr len data) s = .fault f := by
  by_cases hout : (s.inHold || !(s.port h).isActive) = true
  · exact .inl (if_pos hout)
  rw [Bool.or_eq_true, not_or, Bool.not_eq_true, Bool.not_eq_true, Bool.not_eq_false'] at hout
  obtain ⟨hin, hact⟩ := hout
  have hhold : s.hold = none := by simpa [State.inHold] using hin
  by_cases hcredit : creditCheck (s.port h) data.length = true
  · obtain ⟨hhdr, hdata⟩ := creditCheck_iff.1 hcredit
    right; right
    cases hslot : (s.port h).vacantSlot with
    | none =>
      refine .inr ⟨hhold, ⟨hact, hhdr, hdata, .inl hslot⟩, .noVacantSlot, ?_⟩
      simp [exec, execRequest, hin, hact, hcredit, hslot]
    | some i =>
      by_cases hfew : ((s.port h).freeStaging.take (ceilBlocks data.length)).length < ceilBlocks data.length
      · refine .inr ⟨hhold, ⟨hact, hhdr, hdata, .inr (by rw [List.length_take] at hfew; omega)⟩, .noStagingBlock, ?_⟩
        simp only [exec, execRequest, hin, hact, hcredit, hslot, hfew, Bool.not_true, Bool.or_false, Bool.false_eq_true,
          if_false, if_true]
      · have hlen := List.length_take_le (ceilBlocks data.length) (s.port h).freeStaging
        have ht : Taken (s.port h) data.length i ((s.port h).freeStaging.take (ceilBlocks data.length)) :=
          ⟨hact, hhdr, hdata, hslot, rfl, by omega⟩
        exact .inl ⟨i, _, ht, execRequest_of_taken hhold ht⟩
  · exact .inr (.inl (by simp [exec, execRequest, hin, hact, hcredit]))

/-- While request credits balance, Intake has what they stand for (R25, R28, R29). -/
theorem Short.not_balanced {p : PortState} {n : Nat} (h : Short p n) : ¬ p.creditsBalance := by
  intro hb
  obtain ⟨hact, hhdr, hdata, hlacks⟩ := h
  obtain ⟨hnd, h1, h2⟩ := (creditsBalance_iff_of_active hact).1 hb
  rcases hlacks with hv | hf
  · have := occupied_of_vacantSlot_none hv
    omega
  · have := length_freeStaging hnd
    omega

/-! A REQUEST as moves of its port -/

/-- A request stays in the slot it took, not yet READY, with the staging blocks it took. -/
theorem move_accept {p : PortState} {n : Nat} {i : Slot} {blocks : List StageBlock} (ht : Taken p n i blocks)
    (data : List Byte) {r : ReqRec} (hs : r.stage ≠ .ready) (hb : r.staging = blocks)
    (hid : r.mapped = true → ∃ id, r.hostId = some id ∧ p.idMapped id = false) :
    PortMove p ((consume blocks data p).setSlot i (some r)) := by
  refine .accept (r := r) ht.active (slot_vacantSlot ht.slot) hs ?_ ht.hdr (by rw [hb, ht.length]; exact ht.data)
    (hb ▸ ht.nodup) (fun b hm => ht.free (hb ▸ hm)) ?_
  · rintro hm j x hx hxm heq
    obtain ⟨id, hid, hfree⟩ := hid hm
    have : p.idMapped id = true := List.any_eq_true.2 ⟨x, mem_records.2 ⟨j, hx⟩, by simp [hxm, heq, hid]⟩
    rw [hfree] at this
    cases this
  · rw [hb]
    rfl

theorem moves_handBack {p q : PortState} {n : Nat} {i : Slot} {blocks : List StageBlock} (ht : Taken p n i blocks)
    (data : List Byte) (h : q.books = (giveBack 1 blocks.length (consume blocks data p)).books) : PortMoves p q :=
  (PortMove.handBack (n := blocks.length) ht.active ht.hdr (ht.length ▸ ht.data) h).moves

theorem moved_creditViolation (h : Port) (s : State) : Moved s (creditViolation h s) :=
  (moved_raiseNotice ..).trans (moved_appendLog ..)

/-! Checks 3 to 6 (R32 to R38) -/

section

variable {s : State} {h : Port} {i : Slot} {r : ReqRec} {id : HostId} {addr : BitVec 48}

theorem admitRequest_of_mapped (hk : r.kind ≠ .post) (hm : (s.port h).idMapped id = true) :
    admitRequest h i r id addr s = rejectRequest h i r .idInUse s :=
  if_pos ⟨hk, hm⟩

theorem admitRequest_fence (hk : r.kind = .fence) (hm : (s.port h).idMapped id = false) :
    admitRequest h i r id addr s = s.modPort h fun p => fenceTest (p.setSlot i (some { r with mapped := true })) := by
  simp [admitRequest, hk, hm]

theorem admitRequest_pass (hk : r.kind ≠ .fence) (hm : r.kind = .post ∨ (s.port h).idMapped id = false) {a : BitVec 40}
    (ha : accessCheck s h r.kind addr.toNat r.length = .inr a) :
    admitRequest h i r id addr s = s.modPort h fun p =>
      p.setSlot i (some { r with mapped := decide (r.kind ≠ .post), target := some a }) := by
  have hm' : ¬ (r.kind ≠ .post ∧ (s.port h).idMapped id = true) := by
    rintro ⟨h1, h2⟩
    rcases hm with hm | hm
    · exact h1 hm
    · rw [h2] at hm; cases hm
  simp only [admitRequest, if_neg hm', if_neg hk, ha]

theorem admitRequest_fail (hk : r.kind ≠ .fence) (hp : r.kind ≠ .post) (hm : (s.port h).idMapped id = false)
    {st : HostStatus} (ha : accessCheck s h r.kind addr.toNat r.length = .inl st) :
    admitRequest h i r id addr s = rejectRequest h i { r with mapped := true } st s := by
  simp [admitRequest, hm, if_neg hk, ha, hp]

theorem admitRequest_drop (hp : r.kind = .post) {st : HostStatus}
    (ha : accessCheck s h r.kind addr.toNat r.length = .inl st) :
    admitRequest h i r id addr s = dropAtIntake h { r with mapped := false } addr st s := by
  rw [hp] at ha
  simp [admitRequest, hp, ha]

end

theorem idMapped_consume (blocks : List StageBlock) (data : List Byte) (p : PortState) (id : HostId) :
    (consume blocks data p).idMapped id = p.idMapped id := rfl

/-- Checks 3 to 6 of a request that took slot `i`, as moves of its port. -/
theorem moved_admitRequest {s : State} {h : Port} {data : List Byte} {i : Slot} {blocks : List StageBlock}
    (ht : Taken (s.port h) data.length i blocks) {r : ReqRec} {id : HostId} (hs : r.stage = .queued)
    (hb : r.staging = blocks) (hun : r.mapped = false) (hid : r.kind ≠ .post → r.hostId = some id) (addr : BitVec 48) :
    Moved s (admitRequest h i r id addr (s.modPort h (consume blocks data))) := by
  have hs' : r.stage ≠ .ready := by simp [hs]
  have hport : ((s.modPort h (consume blocks data)).port h).idMapped id = (s.port h).idMapped id := by
    rw [port_modPort_same, idMapped_consume]
  have haccept (q : ReqRec) (hq : q.stage ≠ .ready) (hqb : q.staging = blocks)
      (hqid : q.mapped = true → ∃ id, q.hostId = some id ∧ (s.port h).idMapped id = false) (f : PortState → PortState)
      (hf : PortMoves ((consume blocks data (s.port h)).setSlot i (some q))
        (f ((consume blocks data (s.port h)).setSlot i (some q)))) :
      Moved s ((s.modPort h (consume blocks data)).modPort h fun p => f (p.setSlot i (some q))) := by
    rw [modPort_modPort_same]
    exact moved_modPort ((move_accept ht data hq hqb hqid).moves.trans hf)
  have hreject (q : ReqRec) (st : HostStatus) (hq : q.stage = .queued) (hqb : q.staging = blocks)
      (hqid : q.mapped = true → ∃ id, q.hostId = some id ∧ (s.port h).idMapped id = false) :
      Moved s (rejectRequest h i q st (s.modPort h (consume blocks data))) :=
    haccept { q with rejected := true } (by simp [hq]) hqb hqid (enterReady i st)
      (PortMove.ready st (slot_setSlot_same ..) (by simp [hq])).moves
  by_cases hp : r.kind = .post
  · cases ha : accessCheck (s.modPort h (consume blocks data)) h r.kind addr.toNat r.length with
    | inl st =>
      rw [admitRequest_drop hp ha]
      unfold dropAtIntake
      rw [modPort_modPort_same]
      refine (moved_modPort ?_).trans (moved_appendLog ..)
      exact moves_handBack ht data ((books_raiseNotice _ _).trans (by rw [hb]))
    | inr a =>
      rw [admitRequest_pass (by simp [hp]) (.inl hp) ha]
      exact haccept { r with mapped := decide (r.kind ≠ .post), target := some a } hs' hb (by simp [hp]) (fun p => p) .refl
  · cases hm : (s.port h).idMapped id with
    | true =>
      rw [admitRequest_of_mapped hp (hport.trans hm)]
      exact hreject r .idInUse hs hb (by simp [hun])
    | false =>
      have hmapped : ∃ x, r.hostId = some x ∧ (s.port h).idMapped x = false := ⟨id, hid hp, hm⟩
      by_cases hf : r.kind = .fence
      · rw [admitRequest_fence hf (hport.trans hm)]
        exact haccept { r with mapped := true } hs' hb (fun _ => hmapped) fenceTest (moves_fenceTest _)
      · cases ha : accessCheck (s.modPort h (consume blocks data)) h r.kind addr.toNat r.length with
        | inl st =>
          rw [admitRequest_fail hf hp (hport.trans hm) ha]
          exact hreject { r with mapped := true } st hs hb fun _ => hmapped
        | inr a =>
          rw [admitRequest_pass hf (.inr (hport.trans hm)) ha]
          exact haccept { r with mapped := decide (r.kind ≠ .post), target := some a } hs' hb (fun _ => hmapped)
            (fun p => p) .refl

theorem moved_intake {s : State} {h : Port} {data : List Byte} {i : Slot} {blocks : List StageBlock}
    (ht : Taken (s.port h) data.length i blocks) (kind : BitVec 8) (id : HostId) (cls : BitVec 2) (addr : BitVec 48)
    (len : Nat) : Moved s (intake h kind id cls addr len data i blocks s) := by
  unfold intake
  dsimp only
  split
  · unfold malformedRequest
    rw [modPort_modPort_same]
    exact (moved_modPort (moves_handBack ht data (books_raiseNotice ..))).trans (moved_appendLog ..)
  · exact moved_admitRequest ht rfl rfl rfl (fun hk => if_neg hk) addr

/-- A REQUEST that does not stop the machine is made of moves of its port. -/
theorem moved_request {s t : State} {h : Port} {kind : BitVec 8} {id : HostId} {cls : BitVec 2} {addr : BitVec 48}
    {len : BitVec 16} {data : List Byte} (ht : exec (.request h kind id cls addr len data) s = .next t) : Moved s t := by
  rcases execRequest_cases h kind id cls addr len data s with he | he | ⟨i, blocks, htaken, he⟩ | ⟨-, -, f, he⟩
  · rw [he] at ht
    cases ht
    exact .refl s
  · rw [he] at ht
    cases ht
    exact (moved_creditViolation h s).trans (moved_reportAll _)
  · rw [he] at ht
    cases ht
    exact (moved_intake htaken ..).trans (moved_reportAll _)
  · rw [he] at ht
    cases ht

end Sys2Proof.Machine
end

section
/-! SUPPORT. What a command makes of the ports, up to the step. -/

namespace Sys2Proof.Machine

/-- What a command does to the ports: moves; at the beginning of a reset hold, the stop of every transmission; at a part
reset, every port at its reset values. The waiting commands stand. -/
inductive PortsAfter (s t : State) : Prop where
  | moved (h : Moved s t)
  | held (hold : t.hold ≠ none) (pending : t.pending = s.pending)
      (ports : ∀ h, (t.port h).books = { (s.port h).books with tx := none })
  | reset (pending : t.pending = s.pending) (ports : ∀ h, (t.port h).books = PortState.reset.books)

theorem PortsAfter.pending {s t : State} (h : PortsAfter s t) : t.pending = s.pending := by
  cases h with
  | moved h => exact h.pending
  | held _ hp _ => exact hp
  | reset hp _ => exact hp

theorem resetBlocks_portsAfter (c : ResetCause) (l : FaultLog) {f : PortState → PortState} (g : TargetLane → TargetLane)
    (s : State) (hf : ∀ p, (f p).books = PortState.reset.books) : PortsAfter s (resetBlocks c l f g s) :=
  .reset rfl fun h => by simp [resetBlocks, State.port, hf]

theorem commandSoftReset_portsAfter (s : State) : PortsAfter s (commandSoftReset s) :=
  .reset rfl fun h => by simp [commandSoftReset, setResult, resetBlocks, State.port, softPort, books_freshPort]

theorem hardReset_portsAfter (c : ResetCause) (s : State) : PortsAfter s (hardReset c s) :=
  resetBlocks_portsAfter _ _ _ s (books_freshPort none)

theorem beginHold_portsAfter (c : HoldCause) (s : State) : PortsAfter s (beginHold c s) :=
  .held (by simp [beginHold]) rfl fun h => by
    show ((s.modPorts (cutOff .stopped)).port h).books = _
    rw [port_modPorts, books_cutOff]

theorem takeCommandWord_portsAfter (w : Word) (s : State) : PortsAfter s (takeCommandWord w s) := by
  unfold takeCommandWord
  split
  · exact .moved (moved_setResult ..)
  · exact .moved (moved_commandPortReset ..)
  · exact .moved ((moved_commandTargetReset s).trans (moved_reportAll _))
  · exact commandSoftReset_portsAfter s
  · exact .moved (moved_commandReshape ..)
  · exact .moved (.of_ports rfl rfl rfl)
  · exact .moved (.of_ports rfl rfl rfl)
  · exact .moved (moved_commandTableFetch ..)
  · exact .moved ((moved_commandTableCommit ..).trans (moved_reportAll _))

theorem writeRegister_portsAfter (a : BitVec 16) (w : Word) (s : State) : PortsAfter s (writeRegister a w s) := by
  unfold writeRegister
  split
  · exact .moved (.of_ports rfl rfl rfl)
  · split
    · exact .moved (.of_ports rfl rfl rfl)
    · split
      · exact takeCommandWord_portsAfter w s
      · unfold writeStaging
        split <;> exact .moved (.of_ports rfl rfl rfl)

theorem takes_portsAfter {s t : State} {f : State → State} (hf : ∀ a, PortsAfter a (f a)) (ht : takes f s = .next t) :
    PortsAfter s t := by
  simp only [takes, Host.Outcome.next.injEq] at ht
  subst ht
  split
  · exact .moved (.refl s)
  · exact hf s

theorem takes_moved {s t : State} {f : State → State} (hf : ∀ a, Moved a (f a)) (ht : takes f s = .next t) :
    PortsAfter s t :=
  takes_portsAfter (fun a => .moved (hf a)) ht

theorem takes_reported {s t : State} {f : State → State} (hf : ∀ a, Moved a (f a))
    (ht : takes (fun a => reportAll (f a)) s = .next t) : PortsAfter s t :=
  takes_moved (fun a => (hf a).trans (moved_reportAll _)) ht

/-- An event taken under a condition. -/
theorem moved_when (c : State → Bool) {f : State → State} (hf : ∀ a, Moved a (f a)) (s : State) :
    Moved s (if c s then f s else s) := by
  split
  · exact hf s
  · exact .refl s

/-- An event of one port, and the reports after it. -/
theorem takes_portMoves {s t : State} {h : Port} (f : State → PortState → PortState)
    (hf : ∀ a : State, PortMoves (a.port h) (f a (a.port h)))
    (ht : takes (fun s => reportAll (s.modPort h (f s))) s = .next t) : PortsAfter s t :=
  takes_reported (fun a => moved_modPort (hf a)) ht

theorem moved_invalidCommand (w : Word) (s : State) :
    Moved s (if commandInRange w then s else answerInvalid (commandCode w) s) := by
  split
  · exact .refl s
  · exact moved_setResult ..

/-- Every command does to the ports what PortsAfter says. -/
theorem exec_portsAfter {c : Instr} {s t : State} (ht : exec c s = .next t) : PortsAfter s t := by
  cases c with
  | tickEvent => exact takes_moved (fun a => (moved_closeTick a).trans (moved_advance _)) ht
  | deadlineExpiry => exact takes_reported moved_takeDeadlines ht
  | backoffEnd => exact takes_moved moved_takeBackoffEnds ht
  | quarantineEnd => exact takes_moved moved_takeQuarantineEnds ht
  | drainLimitExpiry => exact takes_moved moved_takeDrainLimit ht
  | drainComplete => exact takes_moved moved_drainTest ht
  | stallExpiry h => exact takes_moved (moved_takeStallExpiry h) ht
  | hostCarrierDetect h =>
    cases ht
    split
    · exact .moved (moved_carrier h true s)
    · exact .moved (moved_modPort (moves_detectCarrier _))
  | hostCarrierLoss h =>
    cases ht
    split
    · exact .moved (moved_carrier h false s)
    · exact .moved (moved_loseCarrier h s)
  | hostCheckFailure h => exact takes_moved (moved_failCheck h) ht
  | hostHoldoffEnd h => exact takes_moved (moved_endHoldoff h) ht
  | attach h mask hdr data => exact takes_reported (moved_takeAttach h mask hdr.toNat data.toNat) ht
  | request h kind id cls addr len data => exact .moved (moved_request ht)
  | credit h hdr data =>
    exact takes_moved (moved_when (fun a => (a.port h).isActive) fun a =>
      (moved_modPort (f := takeCredit hdr.toNat data.toNat) (moves_quiet rfl)).trans (moved_reportAll _)) ht
  | noticeAck h bits =>
    exact takes_moved (moved_when (fun a => (a.port h).isActive) fun a =>
      (moved_modPort (moves_quiet (books_acknowledge bits _))).trans (moved_reportAll _)) ht
  | hostUnusablePacket h bytes => exact takes_moved .refl ht
  | attachAnswerStart h =>
    exact takes_portMoves (fun _ => startIf .answer startAnswer)
      (fun _ => moves_startIf fun hs => moves_startAnswer (selected_some hs)) ht
  | grantTransmissionStart h =>
    exact takes_portMoves (fun _ => startIf .grant startGrant) (fun _ => moves_startIf fun hs =>
      (PortMove.grantStart (isActive_of_selected hs (by simp)) (selected_some hs)).moves) ht
  | noticeTransmissionStart h =>
    exact takes_portMoves (fun _ => startIf .notice startNotice)
      (fun _ => moves_startIf fun hs => moves_startNotice (selected_some hs)) ht
  | responseTransmissionStart h =>
    exact takes_portMoves (fun s => startIf .response (startResponse s.buffer))
      (fun _ => moves_startIf fun hs => moves_startResponse (selected_some hs) _) ht
  | responseTransmissionEnd h =>
    exact takes_portMoves (fun _ => endResponse) (fun _ => (PortMove.responseEnd _).moves) ht
  | grantTransmissionEnd h => exact takes_portMoves (fun _ => endGrant) (fun _ => (PortMove.grantEnd _).moves) ht
  | hostTransmissionEnd h => exact takes_portMoves (fun _ => endOther) (fun _ => moves_endOther _) ht
  | targetCarrierDetect =>
    cases ht
    split
    · exact .moved (moved_modTarget ..)
    · exact .moved (moved_detectTarget s)
  | targetCarrierLoss =>
    cases ht
    split
    · exact .moved (moved_modTarget ..)
    · exact .moved ((moved_loseTarget s).trans (moved_reportAll _))
  | targetCheckFailure => exact takes_reported (moved_downWith .protocol) ht
  | trainAck hdr data size => exact takes_reported (moved_takeTrainAck hdr.toNat data.toNat size.toNat) ht
  | trainEndTickExpiry => exact takes_moved moved_takeTrainEnd ht
  | targetHoldoffEnd => exact takes_moved moved_endTargetHoldoff ht
  | tcpl tag status remaining data =>
    exact takes_moved (moved_when State.targetUp fun a =>
      ((moved_takePart tag ⟨status, remaining.toNat, data⟩ a).trans (moved_drainTest _)).trans (moved_reportAll _)) ht
  | tcredit hdr data =>
    exact takes_moved (moved_when State.targetUp fun a =>
      (moved_takeTcredit hdr.toNat data.toNat a).trans (moved_reportAll _)) ht
  | targetUnusablePacket bytes => exact takes_moved .refl ht
  | treqTransmissionEnd => exact takes_moved (fun a => moved_modTarget a endTreq) ht
  | issueGrant => exact takes_reported (moved_atOpportunity moved_issueGrantStep) ht
  | retryGrant => exact takes_reported (moved_atOpportunity moved_retryGrantStep) ht
  | claimEntry =>
    exact takes_reported (moved_atOpportunity fun a => (moved_ceilingRetires a).trans (moved_enterClaims _)) ht
  | dataCreditHold => exact takes_reported (moved_atOpportunity moved_evaluate) ht
  | readCeilingRetire => exact takes_reported (moved_atOpportunity moved_ceilingRetires) ht
  | fenceReady h => exact takes_portMoves (fun _ => fenceTest) (fun _ => moves_fenceTest _) ht
  | eventPendingWrite w => exact takes_moved (f := writePending w) (fun _ => .of_ports rfl rfl rfl) ht
  | eventEnableWrite w => exact takes_moved (f := writeEnable w) (fun _ => .of_ports rfl rfl rfl) ht
  | registerWrite addr w => exact takes_portsAfter (writeRegister_portsAfter addr w) ht
  | writeFrameDiscard => exact takes_moved (f := endFrame) (fun _ => .of_ports rfl rfl rfl) ht
  | invalidCommand w => exact takes_moved (moved_invalidCommand w) ht
  | portReset a => exact takes_moved (moved_commandPortReset a) ht
  | targetReset => exact takes_reported moved_commandTargetReset ht
  | softReset => exact takes_portsAfter commandSoftReset_portsAfter ht
  | reshape b => exact takes_moved (moved_commandReshape b) ht
  | logPop => exact takes_moved (f := commandLogPop) (fun _ => .of_ports rfl rfl rfl) ht
  | logClear => exact takes_moved (f := commandLogClear) (fun _ => .of_ports rfl rfl rfl) ht
  | tableFetch a b => exact takes_moved (moved_commandTableFetch a b) ht
  | tableCommit a b => exact takes_reported (moved_commandTableCommit a b) ht
  | powerOnReset =>
    cases ht
    split
    · exact .moved (.refl s)
    · exact hardReset_portsAfter .powerOn s
  | pinReset =>
    cases ht
    split
    · exact .moved (.refl s)
    · exact hardReset_portsAfter .pin s
  | resetHoldBegin c => exact takes_portsAfter (beginHold_portsAfter c) ht

/-- A step's ports are those of a command, or stand (log 2). -/
theorem step_portsAfter {s t : State} (ht : step s = .next t) :
    ∃ a : State, a.ports = s.ports ∧ a.hold = s.hold ∧ PortsAfter a t := by
  unfold step at ht
  split at ht
  · cases ht
    exact ⟨s, rfl, rfl, .moved (.refl s)⟩
  · rename_i rest _
    exact ⟨{ s with pending := rest }, rfl, rfl, exec_portsAfter ht⟩

/-! The three invariants -/

theorem PortsAfter.keeps_creditsBalance {s t : State} (h : PortsAfter s t) (hs : CreditsBalance s) : CreditsBalance t := by
  intro hhold p
  cases h with
  | moved h => exact (h.ports p).keeps PortMove.keeps_creditsBalance (hs (h.hold ▸ hhold) p)
  | held hne _ _ => exact absurd hhold hne
  | reset _ hp => exact creditsBalance_of_cleared (hp p)

theorem PortsAfter.keeps_responsesQueued {s t : State} (h : PortsAfter s t) (hs : ResponsesQueued s) :
    ResponsesQueued t := by
  intro p
  cases h with
  | moved h => exact (h.ports p).keeps PortMove.keeps_responsesQueued (hs p)
  | held _ _ hp => exact responsesQueued_of_idle (books_slots (hp p)) (books_respQ (hp p)) (books_tx (hp p)) (hs p)
  | reset _ hp => exact (PortMove.cleared (hp p)).keeps_responsesQueued (hs p)

theorem PortsAfter.keeps_hostIdsOnce {s t : State} (h : PortsAfter s t) (hs : HostIdsOnce s) : HostIdsOnce t := by
  intro p
  cases h with
  | moved h => exact (h.ports p).keeps PortMove.keeps_idsOnce (hs p)
  | held _ _ hp => exact idsOnce_congr (books_slots (hp p)) (hs p)
  | reset _ hp => exact (PortMove.cleared (hp p)).keeps_idsOnce (hs p)

/-- Every command but a REQUEST goes on in every state; a REQUEST does so while credits balance. -/
theorem exec_next {c : Instr} {s : State} (hs : CreditsBalance s) : ∃ t, exec c s = .next t := by
  cases c
  case request h kind id cls addr len data =>
    rcases execRequest_cases h kind id cls addr len data s with he | he | ⟨i, blocks, -, he⟩ | ⟨hhold, hshort, -⟩
    · exact ⟨_, he⟩
    · exact ⟨_, he⟩
    · exact ⟨_, he⟩
    · exact absurd (hs hhold h) hshort.not_balanced
  all_goals exact ⟨_, rfl⟩

end Sys2Proof.Machine

namespace Sys2Proof.Proofs

open Sys2Proof.Machine

/-- Settles O5: every step is made of moves of the ports, and each move keeps the balance. -/
theorem stepKeepsCreditsBalance : Obligations.StepKeepsCreditsBalance := by
  intro s t hs ht
  obtain ⟨a, hports, hhold, h⟩ := step_portsAfter ht
  exact h.keeps_creditsBalance fun ha p => by
    simpa only [State.port, hports] using hs (hhold ▸ ha) p

/-- Settles O6: each move of a port keeps its response queue and its host ID map. -/
theorem stepKeepsResponsesQueued : Obligations.StepKeepsResponsesQueued := by
  intro s t ht
  obtain ⟨a, hports, -, h⟩ := step_portsAfter ht
  exact ⟨fun hs => h.keeps_responsesQueued fun p => by simpa only [State.port, hports] using hs p,
    fun hs => h.keeps_hostIdsOnce fun p => by simpa only [State.port, hports] using hs p⟩

/-- Settles O2: under the balance Intake has what the credits of a REQUEST stand for, and no other command can fault. -/
theorem noCommandStops : Obligations.NoCommandStops := by
  intro c s hs
  obtain ⟨t, ht⟩ := exec_next (c := c) hs
  exact ⟨t, ht, (exec_portsAfter ht).pending⟩

end Sys2Proof.Proofs
end

section
/-! SUPPORT. The FENCE (R41, R42): the test leaves no FENCE that may enter READY, and what it makes of the first one. -/

namespace Sys2Proof.Machine

/-- The FENCE that may enter READY is the issue head, with no earlier record in AWAITING (R41). -/
theorem readyFence_eq_some {p : PortState} {i : Slot} :
    p.readyFence = some i ↔
      p.firstInOrder = some i ∧ ∃ r, p.slot i = some r ∧ r.kind = .fence ∧ p.earlierAwaiting r = false := by
  unfold PortState.readyFence
  cases p.firstInOrder with
  | none => simp
  | some j =>
    cases hr : p.slot j with
    | none =>
      simp only [hr, reduceCtorEq, Option.some.injEq, false_iff]
      rintro ⟨rfl, r, hr', -⟩
      rw [hr] at hr'
      cases hr'
    | some r =>
      simp only [hr, Option.ite_none_right_eq_some, Option.some.injEq, Bool.and_eq_true, beq_iff_eq, Bool.not_eq_true']
      constructor
      · rintro ⟨⟨hk, ha⟩, rfl⟩
        exact ⟨rfl, r, hr, hk, ha⟩
      · rintro ⟨rfl, q, hq, hk, ha⟩
        rw [hr] at hq
        cases hq
        exact ⟨⟨hk, ha⟩, rfl⟩

/-- A port without a record in the issue order has no FENCE to test. -/
theorem readyFence_of_no_waits {p : PortState} (h : ∀ i, p.waitsForIssue i = false) : p.readyFence = none := by
  have : p.firstInOrder = none := List.find?_eq_none.2 fun i _ => by simp [h i]
  simp [PortState.readyFence, this]

theorem fenceStep_of_none {p : PortState} (h : p.readyFence = none) : fenceStep p = p := by simp [fenceStep, h]

/-- The records of a port that wait for issue. -/
def PortState.waiting (p : PortState) : List Slot := allSlots.filter p.waitsForIssue

theorem waitsForIssue_fenceStep {p : PortState} {i : Slot} (h : p.readyFence = some i) (j : Slot) :
    (fenceStep p).waitsForIssue j = (p.waitsForIssue j && j != i) := by
  rcases fenceStep_cases p with ⟨hn, -⟩ | ⟨k, r, hk, hr, -, -, he⟩
  · rw [hn] at h
    cases h
  · rw [hk] at h
    cases h
    have hslot : (fenceStep p).slot j = if j = i then
        some { r with stage := .ready, status := some (if p.fenceFault then .faultSeen else .ok), staging := [] }
        else p.slot j := by
      rw [he]
      exact slot_setSlot p i j _
    unfold PortState.waitsForIssue
    rw [hslot]
    by_cases hj : j = i <;> simp [hj, ReqRec.inIssueOrder]

/-- A FENCE that enters READY leaves the issue order. -/
theorem waiting_fenceStep_lt {p : PortState} {i : Slot} (h : p.readyFence = some i) :
    (fenceStep p).waiting.length < p.waiting.length := by
  have hw : (fenceStep p).waiting = p.waiting.filter (· != i) := by
    unfold PortState.waiting
    rw [List.filter_filter]
    refine List.filter_congr fun j _ => ?_
    rw [waitsForIssue_fenceStep h, Bool.and_comm]
  have hi : i ∈ p.waiting := by
    obtain ⟨r, hr, hwr, -⟩ := firstInOrder_spec (readyFence_eq_some.1 h).1
    exact List.mem_filter.2 ⟨List.mem_finRange i, waitsForIssue_iff.2 ⟨r, hr, hwr⟩⟩
  rw [hw]
  exact List.length_filter_lt_length_iff_exists.2 ⟨i, hi, by simp⟩

/-- Repeated as often as records wait, the step leaves no FENCE that may enter READY. -/
theorem readyFence_repeated (n : Nat) (p : PortState) (hn : p.waiting.length ≤ n) :
    (repeated fenceStep n p).readyFence = none := by
  induction n generalizing p with
  | zero =>
    refine readyFence_of_no_waits fun i => ?_
    have hnil : p.waiting = [] := List.length_eq_zero_iff.1 (Nat.le_zero.1 hn)
    exact Bool.eq_false_iff.2 (List.filter_eq_nil_iff.1 hnil i (List.mem_finRange i))
  | succ n ih =>
    cases hf : p.readyFence with
    | none =>
      rw [repeated_of_fixed (fenceStep_of_none hf)]
      exact hf
    | some i =>
      have := waiting_fenceStep_lt hf
      exact ih (fenceStep p) (by omega)

/-- After the FENCE test no FENCE may enter READY (R41). -/
theorem readyFence_fenceTest (p : PortState) : (fenceTest p).readyFence = none :=
  readyFence_repeated 16 p (List.length_filter_le ..)

theorem fenceTest_eq (p : PortState) : fenceTest p = repeated fenceStep 15 (fenceStep p) := by
  rw [fenceTest, show 16 = 15 + 1 from rfl, repeated]

/-- The first FENCE that enters READY clears the flag, and it stays clear (R42). -/
theorem fenceTest_fenceFault (p : PortState) :
    (fenceTest p).fenceFault = if p.readyFence = none then p.fenceFault else false := by
  have hclear (a : PortState) (ha : a.fenceFault = false) : (fenceStep a).fenceFault = false := by
    rcases fenceStep_cases a with ⟨-, he⟩ | ⟨i, r, -, -, -, -, he⟩
    · rw [he, ha]
    · rw [he]
  split
  · rw [fenceTest_of_none ‹_›]
  · rename_i hne
    rw [fenceTest_eq]
    refine repeated_keeps (P := fun a : PortState => a.fenceFault = false) hclear 15 ?_
    rcases fenceStep_cases p with ⟨hn, -⟩ | ⟨i, r, -, -, -, -, he⟩
    · exact absurd hn hne
    · rw [he]

/-- The FENCE test leaves a record in READY. -/
theorem repeated_fenceStep_ready {p : PortState} {i : Slot} {r : ReqRec} (n : Nat) (hr : p.slot i = some r)
    (hs : r.stage = .ready) : (repeated fenceStep n p).slot i = some r := by
  refine repeated_keeps (P := fun a : PortState => a.slot i = some r) (fun a ha => ?_) n hr
  rcases fenceStep_cases a with ⟨-, he⟩ | ⟨j, q, -, hq, -, hw, he⟩
  · rw [he, ha]
  · have hne : i ≠ j := by
      rintro rfl
      rw [ha] at hq
      cases hq
      simp [ReqRec.inIssueOrder, hs] at hw
    rw [he]
    exact (slot_setSlot_ne a _ hne).trans ha

theorem repeated_fenceStep_respQ (n : Nat) (p : PortState) : p.respQ <+: (repeated fenceStep n p).respQ := by
  refine repeated_keeps (P := fun a : PortState => p.respQ <+: a.respQ) (fun a ha => ?_) n (List.prefix_refl _)
  rcases fenceStep_cases a with ⟨-, he⟩ | ⟨j, q, -, -, -, -, he⟩
  · rw [he]; exact ha
  · rw [he]; exact ha.trans (List.prefix_append ..)

/-- What the step makes of a port whose FENCE in slot `i` may enter READY (R42). -/
theorem fenceStep_of_ready {p : PortState} {i : Slot} {r : ReqRec} (h : p.readyFence = some i) (hr : p.slot i = some r) :
    fenceStep p =
      { p.setSlot i (some { r with stage := .ready, status := some (if p.fenceFault then .faultSeen else .ok),
                                   staging := [] }) with
        respQ := p.respQ ++ [i], fenceFault := false, retData := p.retData + r.staging.length } := by
  rcases fenceStep_cases p with ⟨hn, -⟩ | ⟨k, q, hk, hq, -, -, he⟩
  · rw [hn] at h
    cases h
  · rw [hk] at h
    cases h
    rw [hr] at hq
    cases hq
    exact he

/-- The FENCE that may enter READY is in READY after the test, by the flag as it stood, and queued (R42, R43). -/
theorem fenceTest_of_ready {p : PortState} {i : Slot} {r : ReqRec} (h : p.readyFence = some i) (hr : p.slot i = some r) :
    (fenceTest p).slot i = some { r with
        stage := .ready, status := some (if p.fenceFault then .faultSeen else .ok), staging := [] } ∧
      i ∈ (fenceTest p).respQ := by
  have he := fenceStep_of_ready h hr
  rw [fenceTest_eq]
  refine ⟨repeated_fenceStep_ready 15 ?_ rfl, (repeated_fenceStep_respQ 15 _).subset ?_⟩
  · rw [he]
    exact slot_setSlot_same ..
  · rw [he]
    simp

/-! What the reports leave -/

theorem age_congr {p q : PortState} (ha : q.acceptSeq = p.acceptSeq) : q.age = p.age := by
  funext r
  simp only [PortState.age, ha]

section

variable {p q : PortState} (hs : q.slots = p.slots) (ha : q.acceptSeq = p.acceptSeq)
include hs ha

theorem slotAge_congr : q.slotAge = p.slotAge := by
  funext i
  simp only [PortState.slotAge, slot_congr hs, age_congr ha]

theorem insertByAge_congr : insertByAge q = insertByAge p := by
  funext x l
  induction l with
  | nil => rfl
  | cons y l ih => simp only [insertByAge, slotAge_congr hs ha, ih]

theorem acceptanceOrder_congr : q.acceptanceOrder = p.acceptanceOrder := by
  simp only [PortState.acceptanceOrder, insertByAge_congr hs ha, slot_congr hs]

theorem firstInOrder_congr : q.firstInOrder = p.firstInOrder := by
  have hw : q.waitsForIssue = p.waitsForIssue := by
    funext i
    simp only [PortState.waitsForIssue, slot_congr hs]
  rw [PortState.firstInOrder, acceptanceOrder_congr hs ha, hw, PortState.firstInOrder]

theorem earlierAwaiting_congr : q.earlierAwaiting = p.earlierAwaiting := by
  funext r
  simp only [PortState.earlierAwaiting, PortState.records, age_congr ha, hs]

theorem readyFence_congr : q.readyFence = p.readyFence := by
  unfold PortState.readyFence
  rw [firstInOrder_congr hs ha, earlierAwaiting_congr hs ha, funext (slot_congr hs)]

end

@[simp] theorem report_readyFence (p : PortState) : (report p).readyFence = p.readyFence :=
  readyFence_congr (report_slots p) (congrArg PortState.acceptSeq (report_frame p) :)
@[simp] theorem report_fenceFault (p : PortState) : (report p).fenceFault = p.fenceFault :=
  (congrArg PortState.fenceFault (report_frame p) :)

/-- One port rewritten, and the reports after it. -/
theorem reportAll_modPort (s : State) (h : Port) (f : PortState → PortState) :
    (reportAll (s.modPort h f)).port h = report (f (s.port h)) ∧
      (∀ g, g ≠ h → (reportAll (s.modPort h f)).port g = report (s.port g)) ∧
      { reportAll (s.modPort h f) with ports := s.ports } = s :=
  ⟨by rw [port_reportAll, port_modPort_same], fun g hg => by rw [port_reportAll, port_modPort_ne s f hg], rfl⟩

/-! The end of a RESPONSE (R45) -/

/-- The record of the RESPONSE that has been sent leaves the head of the queue, and its slot is VACANT. -/
theorem endResponse_of_sent {p : PortState} {i : Slot} {r : ReqRec} {st : HostStatus} {id : HostId} {o : Option Nat}
    {d : Option (List Byte)} (ht : p.tx = some (.response i st id o d)) (hq : p.respQ.head? = some i)
    (hr : p.slot i = some r) :
    endResponse p = { p.setSlot i none with
      tx := none, respQ := p.respQ.tail, retHdr := p.retHdr + 1, retData := p.retData + r.staging.length } := by
  obtain ⟨l, hl⟩ := List.head?_eq_some_iff.1 hq
  have hr' : PortState.slot { p with tx := none, respQ := p.respQ.erase i } i = some r := hr
  rw [endResponse, ht]
  dsimp only
  rw [vacate_of_some hr', hl, List.erase_cons_head]
  rfl

end Sys2Proof.Machine

namespace Sys2Proof.Proofs

open Sys2Proof.Machine

/-- Settles O45: FENCE_READY is the FENCE test, which takes the issue head by `fenceTest_of_ready` and ends with no FENCE that
may enter READY. -/
theorem fenceReadsAndClearsTheFlag : Obligations.FenceReadsAndClearsTheFlag := by
  intro h i r s hs hf hr
  obtain ⟨hport, hothers, hframe⟩ := reportAll_modPort s h fenceTest
  obtain ⟨hslot, hq⟩ := fenceTest_of_ready hf hr
  rw [← report_slot, ← hport] at hslot
  refine ⟨_, _, takes_next hs fun s => reportAll (s.modPort h fenceTest), hslot, rfl, rfl, rfl, ?flag, ?none, ?queue,
    hothers, hframe⟩
  case flag =>
    rw [hport, report_fenceFault, fenceTest_fenceFault, hf]
    rfl
  case none => rw [hport, report_readyFence, readyFence_fenceTest]
  case queue =>
    rw [hport, report_respQ]
    exact hq

/-- Settles O39: the selection names the queue's head, and the packet is built from its record (R44). -/
theorem responseStarts : Obligations.ResponseStarts := by
  intro h i r s hs hsel hq hr
  obtain ⟨hport, hothers, hframe⟩ := reportAll_modPort s h (startIf .response (startResponse s.buffer))
  refine ⟨_, _, takes_next hs fun s => reportAll (s.modPort h (startIf .response (startResponse s.buffer))), rfl, ?_,
    hothers, hframe⟩
  rw [hport, startIf, if_pos hsel, startResponse, hq]
  dsimp only
  rw [hr]
  rfl

/-- Settles O40: each end of transmission by the packet that was being sent (R45, R122, R126). -/
theorem outboundEnds : Obligations.OutboundEnds := by
  refine ⟨fun h i r st id o d s hs ht hq hr hst => ?_, fun h s hs => ⟨fun a b ht => ?_, fun ht => ?_⟩⟩
  · obtain ⟨hport, hothers, hframe⟩ := reportAll_modPort s h endResponse
    refine ⟨_, takes_next hs fun s => reportAll (s.modPort h endResponse), ?_, hothers, hframe⟩
    rw [hport, endResponse_of_sent ht hq hr, hst]
    rfl
  · obtain ⟨hport, hothers, hframe⟩ := reportAll_modPort s h endGrant
    refine ⟨_, takes_next hs fun s => reportAll (s.modPort h endGrant), ?_, hothers, hframe⟩
    rw [hport, endGrant, ht]
  · obtain ⟨hport, hothers, hframe⟩ := reportAll_modPort s h endOther
    refine ⟨_, takes_next hs fun s => reportAll (s.modPort h endOther), ?_, hothers, hframe⟩
    rw [hport, endOther]
    rcases ht with ⟨b, ht⟩ | ⟨a, ht⟩ <;> rw [ht]

end Sys2Proof.Proofs
end

section
/-! SUPPORT. The checks of a REQUEST (R30 to R35) and what it leaves in the slot it took (R36, R37). -/

namespace Sys2Proof.Machine

/-! Checks 4 to 6 (R33 to R35) -/

theorem targetUp_iff {s : State} : s.targetUp = true ↔ s.target.link = .up := by simp [State.targetUp]

theorem limitStatus_of_down {s : State} {h : Port} (hb : (s.portPolicy h).behaviour = .fail) (hd : s.target.link ≠ .up)
    (k : ReqKind) (len : Nat) : limitStatus s h k len = some .unavailable := by
  have : s.targetUp = false := Bool.eq_false_iff.2 fun e => hd (targetUp_iff.1 e)
  simp [limitStatus, hb, this]

/-- Where check 4 passes, check 5 is what is left of the limits. -/
theorem limitStatus_of_passed {s : State} {h : Port} (hp : (s.portPolicy h).behaviour = .hold ∨ s.target.link = .up)
    (k : ReqKind) (len : Nat) :
    limitStatus s h k len = if len = 0 ∨ 512 < len ∨ k = .read ∧ (s.portPolicy h).blockCeiling < (len + 63) / 64
      then some .badRequest else none := by
  have : ¬ ((s.portPolicy h).behaviour = .fail ∧ (!s.targetUp) = true) := by
    rintro ⟨hb, hd⟩
    rcases hp with hp | hp
    · rw [hb] at hp; cases hp
    · simp [targetUp_iff.2 hp] at hd
  simp only [limitStatus, if_neg this]
  rfl

/-- A request lies in an enabled window (R35). -/
def InWindow (w : Window) (addr len : Nat) : Prop :=
  w.enabled = true ∧ w.base.toNat ≤ addr ∧ addr + len ≤ w.limit.toNat

theorem inWindow_iff {w : Window} {addr len : Nat} :
    (w.enabled && w.contains addr len) = true ↔ InWindow w addr len := by
  simp [Window.contains, InWindow]

theorem decidingWindow_of_none {s : State} {h : Port} {addr len : Nat} (hw : ∀ w, ¬ InWindow (s.window h w) addr len) :
    decidingWindow s h addr len = none := by
  refine List.find?_eq_none.2 fun w hm => ?_
  obtain ⟨i, -, rfl⟩ := List.mem_map.1 hm
  rw [inWindow_iff]
  exact hw i

/-- The lowest-numbered window that holds the request decides it (R35). -/
theorem decidingWindow_of_first {s : State} {h : Port} {addr len : Nat} {w : Fin 4}
    (hw : InWindow (s.window h w) addr len) (hlow : ∀ v, v < w → ¬ InWindow (s.window h v) addr len) :
    decidingWindow s h addr len = some (s.window h w) := by
  have hfind : (List.finRange 4).find? (fun v => (s.window h v).enabled && (s.window h v).contains addr len) = some w := by
    obtain ⟨as, bs, hsplit⟩ := List.append_of_mem (List.mem_finRange w)
    refine List.find?_eq_some_iff_append.2 ⟨inWindow_iff.2 hw, as, bs, hsplit, fun v hv => ?_⟩
    have hsorted : (as ++ w :: bs).Pairwise (· < ·) := hsplit ▸ List.pairwise_lt_finRange 4
    have hlt : v < w := (List.pairwise_append.1 hsorted).2.2 v hv w (by simp)
    rw [Bool.not_eq_true', Bool.eq_false_iff, Ne, inWindow_iff]
    exact hlow v hlt
  rw [decidingWindow, List.find?_map]
  exact congrArg (Option.map (s.window h)) hfind

theorem permits_eq {k : ReqKind} (hk : k ≠ .fence) (w : Window) :
    w.permits k = if k = .read then w.canRead else w.canWrite := by
  cases k <;> simp_all [Window.permits]

theorem translate_of_none {s : State} {h : Port} {addr len : Nat} (hw : decidingWindow s h addr len = none)
    (k : ReqKind) : translate s h k addr len = none := by
  simp [translate, hw]

theorem translate_of_window {s : State} {h : Port} {addr len : Nat} {w : Window}
    (hw : decidingWindow s h addr len = some w) (k : ReqKind) :
    translate s h k addr len =
      if w.permits k = true ∧ w.offset.toNat + addr - w.base.toNat + len ≤ 2 ^ 40
      then some (BitVec.ofNat 40 (w.offset.toNat + addr - w.base.toNat)) else none := by
  simp only [translate, hw]
  by_cases hp : w.permits k = true <;> simp [hp]

theorem accessCheck_of_limit {s : State} {h : Port} {k : ReqKind} {len : Nat} {st : HostStatus}
    (hl : limitStatus s h k len = some st) (addr : Nat) : accessCheck s h k addr len = .inl st := by
  simp [accessCheck, hl]

theorem accessCheck_of_none {s : State} {h : Port} {k : ReqKind} {addr len : Nat} (hl : limitStatus s h k len = none)
    (ht : translate s h k addr len = none) : accessCheck s h k addr len = .inl .denied := by
  simp [accessCheck, hl, ht]

/-- What check 6 gives is what the checks give, once the limits pass. -/
theorem accessCheck_of_translate {s : State} {h : Port} {k : ReqKind} {addr len : Nat} {a : BitVec 40} {c : Prop}
    [Decidable c] (hl : limitStatus s h k len = none)
    (ht : translate s h k addr len = if c then some a else none) :
    accessCheck s h k addr len = if c then .inr a else .inl .denied := by
  by_cases hc : c <;> simp [accessCheck, hl, ht, hc]

/-- A status of checks 4 to 6 is one of three, all of which set the fence-fault flag (R33 to R35, R42). -/
theorem accessCheck_status {s : State} {h : Port} {k : ReqKind} {addr len : Nat} {st : HostStatus}
    (ha : accessCheck s h k addr len = .inl st) : st = .unavailable ∨ st = .badRequest ∨ st = .denied := by
  unfold accessCheck at ha
  split at ha
  · rename_i x hx
    cases ha
    unfold limitStatus at hx
    dsimp only at hx
    split at hx
    · cases hx; exact .inl rfl
    · split at hx
      · cases hx; exact .inr (.inl rfl)
      · cases hx
  · split at ha
    · cases ha
    · cases ha; exact .inr (.inr rfl)

theorem accessCheck_modPort (s : State) (g : Port) (f : PortState → PortState) (h : Port) (k : ReqKind) (addr len : Nat) :
    accessCheck (s.modPort g f) h k addr len = accessCheck s h k addr len := rfl

/-! A well-formed REQUEST in the slot it took -/

/-- The conditions of check 2 as one (R31). -/
theorem wellFormedKind_of_fits {kind : BitVec 8} {k : ReqKind} {len n : Nat} (hk : ReqKind.ofCode kind = some k)
    (hn : n = if k = .read then 0 else len) (hf : k = .fence → len = 0) : wellFormedKind kind len n = .inr k := by
  subst hn
  cases k <;> simp_all [wellFormedKind]

/-- A REQUEST that passes checks 1 and 2 goes to checks 3 to 6. -/
theorem exec_request_of_fits {s : State} (hhold : s.hold = none) {h : Port} {kind : BitVec 8} {k : ReqKind} {id : HostId}
    {cls : BitVec 2} {addr : BitVec 48} {len : BitVec 16} {data : List Byte} {i : Slot} {blocks : List StageBlock}
    (ht : Taken (s.port h) data.length i blocks) (hk : ReqKind.ofCode kind = some k)
    (hn : data.length = if k = .read then 0 else len.toNat) (hf : k = .fence → len = 0) :
    exec (.request h kind id cls addr len data) s =
      .next (reportAll (admitRequest h i (newRecord (s.port h) k id cls len.toNat blocks) id addr
        (s.modPort h (consume blocks data)))) := by
  have hwf : wellFormedKind kind len.toNat data.length = .inr k :=
    wellFormedKind_of_fits hk hn fun e => by simp [hf e]
  rw [execRequest_of_taken hhold ht, intake, hwf]

/-- Rejection rewrites the port that took the request (R37). -/
theorem rejectRequest_consumed (s : State) (h : Port) (i : Slot) (r : ReqRec) (st : HostStatus)
    (blocks : List StageBlock) (data : List Byte) :
    rejectRequest h i r st (s.modPort h (consume blocks data)) =
      s.modPort h fun p => enterReady i st ((consume blocks data p).setSlot i (some { r with rejected := true })) := by
  rw [rejectRequest, modPort_modPort_same]

/-- The data of a request reads back from the blocks it took, and every other byte of the staging area stands (R28). -/
theorem Taken.staged {p : PortState} {data : List Byte} {i : Slot} {blocks : List StageBlock}
    (ht : Taken p data.length i blocks) (hwf : p.staging.wf) :
    loadBytes (blocks.map (·.val)) (consume blocks data p).staging 0 data.length = data ∧
      ∀ x : Nat, (∀ b ∈ blocks, x / 64 ≠ b.val) → (consume blocks data p).staging.read x = p.staging.read x := by
  constructor
  · refine loadBytes_storeBytes (ht.nodup.map Fin.val_injective) hwf 0 data ?_
    have := ht.length
    rw [List.length_map]
    unfold ceilBlocks at this
    omega
  · intro x hx
    refine read_storeBytes_outside _ 0 data p.staging x fun b hb => ?_
    obtain ⟨c, hc, rfl⟩ := List.mem_map.1 hb
    exact hx c hc

/-! A FENCE as it is accepted (R32, R36, R41) -/

/-- A FENCE whose port holds no other record but in READY is READY at once (R41, R42). -/
theorem fenceTest_of_alone {p : PortState} {i : Slot} {r : ReqRec} (hr : p.slot i = some r) (hk : r.kind = .fence)
    (hs : r.stage = .queued) (hready : ∀ j q, j ≠ i → p.slot j = some q → q.stage = .ready) :
    fenceTest p =
      { p.setSlot i (some { r with stage := .ready, status := some (if p.fenceFault then .faultSeen else .ok),
                                   staging := [] }) with
        respQ := p.respQ ++ [i], fenceFault := false, retData := p.retData + r.staging.length } := by
  have hwaits (j : Slot) (hj : j ≠ i) : p.waitsForIssue j = false := by
    rw [Bool.eq_false_iff, Ne, waitsForIssue_iff]
    rintro ⟨q, hq, hw⟩
    exact stage_ne_ready_of_waits hw (hready j q hj hq)
  have hfirst : p.firstInOrder = some i := by
    refine firstInOrder_of_oldest hr (.inl hs) fun j q hj hq hw => ?_
    exact absurd (hready j q hj hq) (stage_ne_ready_of_waits hw)
  have hawait : p.earlierAwaiting r = false := by
    rw [Bool.eq_false_iff]
    intro ha
    obtain ⟨q, hq, hqa⟩ := List.any_eq_true.1 ha
    obtain ⟨j, hj⟩ := mem_records.1 hq
    simp only [Bool.and_eq_true, beq_iff_eq] at hqa
    by_cases hji : j = i
    · subst hji
      rw [hr] at hj
      cases hj
      rw [hs] at hqa
      cases hqa.1
    · rw [hready j q hji hj] at hqa
      cases hqa.1
  have hfence : p.readyFence = some i := readyFence_eq_some.2 ⟨hfirst, r, hr, hk, hawait⟩
  have hdone : (fenceStep p).readyFence = none := by
    refine readyFence_of_no_waits fun j => ?_
    rw [waitsForIssue_fenceStep hfence]
    by_cases hj : j = i
    · simp [hj]
    · simp [hwaits j hj]
  rw [fenceTest_eq, repeated_of_fixed (fenceStep_of_none hdone), fenceStep_of_ready hfence hr]

end Sys2Proof.Machine

namespace Sys2Proof.Proofs

open Sys2Proof.Machine

/-- Settles O43: the limits by `limitStatus_of_passed`, the window by `decidingWindow_of_first`. -/
theorem accessChecksInOrder : Obligations.AccessChecksInOrder := by
  intro h k addr len s hk
  refine ⟨fun ⟨hb, hd⟩ => accessCheck_of_limit (limitStatus_of_down hb hd k len) addr, fun hp => ?_⟩
  have hlimit := limitStatus_of_passed hp k len
  refine ⟨fun hbad => accessCheck_of_limit (hlimit.trans (if_pos hbad)) addr, fun h1 h2 h3 => ?_⟩
  have hpass : limitStatus s h k len = none := by
    refine hlimit.trans (if_neg ?_)
    rintro (h0 | h512 | ⟨hr, hc⟩)
    · omega
    · omega
    · have := h3 hr
      omega
  refine ⟨fun hw => accessCheck_of_none hpass (translate_of_none (decidingWindow_of_none hw) k),
    fun w he hb hl hlow => ?_⟩
  have ht := translate_of_window (decidingWindow_of_first ⟨he, hb, hl⟩ hlow) k
  rw [permits_eq hk] at ht
  exact accessCheck_of_translate hpass ht

/-- Settles O41: the checks by `exec_request_of_fits`, the data by `Taken.staged`, the FENCE by the laws of the FENCE test. -/
theorem requestIsAccepted : Obligations.RequestIsAccepted := by
  refine ⟨?access, ?fence⟩
  case access =>
    intro h kind k id cls addr len data i a blocks s hs hact hhdr hdata hslot hblocks hlen hk hkf hn hm ha hwf
    have ht : Taken (s.port h) data.length i blocks := ⟨by simp [PortState.isActive, hact], hhdr, hdata, hslot, hblocks, hlen⟩
    have hexec := exec_request_of_fits (id := id) (cls := cls) (addr := addr) hs ht hk hn fun e => absurd e hkf
    have hadmit := admitRequest_pass (s := s.modPort h (consume blocks data)) (i := i) (addr := addr) (id := id)
      (r := newRecord (s.port h) k id cls len.toNat blocks) hkf (by rw [port_modPort_same]; exact hm)
      ((accessCheck_modPort ..).trans ha)
    rw [hadmit, modPort_modPort_same] at hexec
    obtain ⟨hport, hothers, hframe⟩ := reportAll_modPort s h fun p => (consume blocks data p).setSlot i
      (some { newRecord (s.port h) k id cls len.toNat blocks with mapped := decide (k ≠ .post), target := some a })
    obtain ⟨hload, hrest⟩ := ht.staged hwf
    exact ⟨_, _, hexec, hport, slot_setSlot_same .., fun j hj => slot_setSlot_ne _ _ hj, rfl, rfl, rfl, hload, hrest, rfl,
      hothers, hframe⟩
  case fence =>
    intro h id cls addr i r p s hs hact hhdr hslot hm hr hp
    have ht : Taken (s.port h) ([] : List Byte).length i [] :=
      ⟨by simp [PortState.isActive, hact], hhdr, Nat.zero_le _, hslot, rfl, rfl⟩
    have hexec := exec_request_of_fits (id := id) (cls := cls) (addr := addr) (len := 0) hs ht (kind := 3) (k := .fence)
      (by decide) rfl fun _ => rfl
    have hadmit := admitRequest_fence (s := s.modPort h (consume [] [])) (i := i) (addr := addr) (id := id)
      (r := newRecord (s.port h) .fence id cls 0 []) rfl (by rw [port_modPort_same]; exact hm)
    rw [show (0 : BitVec 16).toNat = 0 from rfl, hadmit, modPort_modPort_same] at hexec
    obtain ⟨hport, hothers, hframe⟩ := reportAll_modPort s h fun p => fenceTest ((consume [] [] p).setSlot i
      (some { newRecord (s.port h) .fence id cls 0 [] with mapped := true }))
    have hpr : (consume [] [] (s.port h)).setSlot i
        (some { newRecord (s.port h) .fence id cls 0 [] with mapped := true }) = p := by
      rw [hp, hr]
      rfl
    rw [hpr] at hport
    refine ⟨_, hexec, fun hn => ?_, fun hall => ?_, ?_, ?_, hothers, hframe⟩
    · exact hport.trans (congrArg report (fenceTest_of_none hn))
    · rw [hport, fenceTest_of_alone (i := i) (r := r) (by rw [← hpr, hr]; exact slot_setSlot_same ..) (by rw [hr])
        (by rw [hr]) fun j q hj hq => ?_]
      · subst hp hr
        simp [PortState.setSlot]
      · rw [← hpr, slot_setSlot_ne _ _ hj] at hq
        exact hall j q hq
    · rw [hport, report_fenceFault, fenceTest_fenceFault, hp]
    · exact (congrArg PortState.readyFence hport).trans ((report_readyFence _).trans (readyFence_fenceTest p))

/-- Settles O42: both refusals reject the record by `rejectRequest_consumed`; only the second has it mapped (R32, R37). -/
theorem requestIsRejected : Obligations.RequestIsRejected := by
  intro h kind k id cls addr len data i st s hs hact hhdr hdata hslot hlen hk hkp hn hf hwhy
  have ht : Taken (s.port h) data.length i _ := ⟨by simp [PortState.isActive, hact], hhdr, hdata, hslot, rfl, hlen⟩
  have hexec := exec_request_of_fits (id := id) (cls := cls) (addr := addr) hs ht hk hn hf
  generalize (s.port h).freeStaging.take (ceilBlocks data.length) = blocks at ht hexec
  obtain ⟨m, hadmit, hm, hfail⟩ : ∃ m : Bool,
      admitRequest h i (newRecord (s.port h) k id cls len.toNat blocks) id addr (s.modPort h (consume blocks data)) =
        rejectRequest h i { newRecord (s.port h) k id cls len.toNat blocks with mapped := m } st
          (s.modPort h (consume blocks data)) ∧
      (m = true ↔ st ≠ .idInUse) ∧ st.failing = true := by
    rcases hwhy with ⟨hmap, rfl⟩ | ⟨hkf, hmap, ha⟩
    · exact ⟨false, admitRequest_of_mapped (r := newRecord (s.port h) k id cls len.toNat blocks) hkp
        (by rw [port_modPort_same]; exact hmap), by simp, rfl⟩
    · refine ⟨true, admitRequest_fail (r := newRecord (s.port h) k id cls len.toNat blocks) hkf hkp
        (by rw [port_modPort_same]; exact hmap) ((accessCheck_modPort ..).trans ha), ?_⟩
      rcases accessCheck_status ha with rfl | rfl | rfl <;> simp [HostStatus.failing]
  rw [hadmit, rejectRequest_consumed] at hexec
  obtain ⟨hport, hothers, hframe⟩ := reportAll_modPort s h fun p => enterReady i st ((consume blocks data p).setSlot i
    (some { newRecord (s.port h) k id cls len.toNat blocks with mapped := m, rejected := true }))
  rw [enterReady_of_some (slot_setSlot_same ..)] at hport
  refine ⟨_, _, _, hexec, hport, slot_setSlot_same .., rfl, rfl, rfl, if_neg hkp, hm, rfl, fun j hj => ?_, rfl, ?_, rfl,
    rfl, ?_, hothers, hframe⟩
  · exact (slot_setSlot_ne _ _ hj).trans (slot_setSlot_ne _ _ hj)
  · exact (congrArg ((s.port h).fenceFault || ·) hfail).trans (Bool.or_true _)
  · exact congrArg ((s.port h).retData + ·) ht.length

end Sys2Proof.Proofs
end

/-! Proofs about issue, splitting, resources and arbitration (03): the blocks and claims that every step keeps, the data
part of a READ, the split, the block counts, the reshape, and the phases of an evaluation. -/

section
/-! SUPPORT. The blocks and the claims of the Response Buffer (R54, R57): the operations by which they only leave, and the
two by which they come, a grant and the claim entries. -/

namespace Sys2Proof.Machine

/-! Blocks by slot (R54) -/

/-- The blocks reserved to what a slot holds. -/
def blocksAt (o : Option ReqRec) : List Block := (o.map (·.blocks)).getD []

@[simp] theorem blocksAt_none : blocksAt none = [] := rfl
@[simp] theorem blocksAt_some (r : ReqRec) : blocksAt (some r) = r.blocks := rfl

theorem blocks_of_slots (p : PortState) :
    p.records.flatMap (·.blocks) = allSlots.flatMap fun i => blocksAt (p.slot i) := by
  have hslots : p.slots.toList.map (Option.map (·.blocks)) = allSlots.map fun i => (p.slot i).map (·.blocks) :=
    List.ext_getElem (by simp) fun n _ _ => by simp [PortState.slot]
  rw [blocks_of_records, hslots, List.flatMap_map]
  rfl

theorem reservedBlocks_eq (s : State) :
    reservedBlocks s = allPorts.flatMap fun h => allSlots.flatMap fun i => blocksAt ((s.port h).slot i) :=
  List.flatMap_congr fun h _ => blocks_of_slots (s.port h)

/-- A list of blocks gathered by index, split at one index: what is on either side of it does not depend on it. -/
theorem flatMap_split {α : Type} {l : List α} (hl : l.Nodup) {a : α} (ha : a ∈ l) (f : α → List Block) :
    ∃ A B, l.flatMap f = A ++ f a ++ B ∧ ∀ g : α → List Block, (∀ c, c ≠ a → g c = f c) → l.flatMap g = A ++ g a ++ B := by
  obtain ⟨as, bs, rfl⟩ := List.append_of_mem ha
  refine ⟨as.flatMap f, bs.flatMap f, by simp, fun g hg => ?_⟩
  have hne : ∀ c ∈ as ++ bs, c ≠ a := by
    rintro c hc rfl
    exact (List.nodup_cons.1 (List.nodup_middle.1 hl)).1 hc
  have hside (l : List α) (hsub : l ⊆ as ++ bs) : l.flatMap g = l.flatMap f :=
    List.flatMap_congr fun c hc => hg c (hne c (hsub hc))
  simp [hside as (by simp), hside bs (by simp)]

/-- The reserved blocks are those of one slot and the rest, whatever the slot is rewritten to. -/
theorem reservedBlocks_setSlot (s : State) (h : Port) (i : Slot) :
    ∃ A B, reservedBlocks s = A ++ blocksAt ((s.port h).slot i) ++ B ∧
      ∀ o, reservedBlocks (s.modPort h fun p => p.setSlot i o) = A ++ blocksAt o ++ B := by
  obtain ⟨A, B, hs, hset⟩ := flatMap_split (List.nodup_finRange 4) (List.mem_finRange h)
    fun g => allSlots.flatMap fun j => blocksAt ((s.port g).slot j)
  obtain ⟨C, D, hp, hslot⟩ := flatMap_split (List.nodup_finRange 16) (List.mem_finRange i)
    fun j => blocksAt ((s.port h).slot j)
  refine ⟨A ++ C, D ++ B, by rw [reservedBlocks_eq, hs, hp]; simp, fun o => ?_⟩
  rw [reservedBlocks_eq, hset _ fun g hg => by rw [port_modPort_ne _ _ hg], port_modPort_same,
    hslot _ fun j hj => by rw [slot_setSlot_ne _ _ hj], slot_setSlot_same]
  simp

/-- A slot that takes free blocks for what it held leaves no block reserved twice (R54, R55). -/
theorem blocksReservedOnce_setSlot {s : State} (hs : BlocksReservedOnce s) (h : Port) (i : Slot) {o : Option ReqRec}
    (hnd : (blocksAt o).Nodup) (hfree : ∀ b ∈ blocksAt o, b ∉ reservedBlocks s) :
    BlocksReservedOnce (s.modPort h fun p => p.setSlot i o) := by
  obtain ⟨A, B, hsplit, hset⟩ := reservedBlocks_setSlot s h i
  unfold BlocksReservedOnce at hs ⊢
  rw [hsplit] at hs hfree
  have hrest : (A ++ B).Sublist (A ++ blocksAt ((s.port h).slot i) ++ B) :=
    (List.sublist_append_left A _).append_right B
  have hperm : (A ++ blocksAt o ++ B).Perm (blocksAt o ++ (A ++ B)) := by
    simpa using List.perm_append_comm.append_right B
  rw [hset, hperm.nodup_iff]
  exact hnd.append (hs.sublist hrest) fun b hb hb' => hfree b hb (hrest.subset hb')

/-! Blocks that only leave a port -/

/-- Each slot of `q` holds blocks that it held in `p`, and no others. -/
structure BlocksReleased (p q : PortState) : Prop where
  slots : ∀ i, (blocksAt (q.slot i)).Sublist (blocksAt (p.slot i))

theorem BlocksReleased.refl (p : PortState) : BlocksReleased p p := ⟨fun _ => .refl _⟩

theorem BlocksReleased.trans {p q r : PortState} (h1 : BlocksReleased p q) (h2 : BlocksReleased q r) :
    BlocksReleased p r :=
  ⟨fun i => (h2.slots i).trans (h1.slots i)⟩

theorem BlocksReleased.of_slots {p q : PortState} (h : q.slots = p.slots) : BlocksReleased p q :=
  ⟨fun i => by rw [slot_congr h]⟩

theorem BlocksReleased.of_books {p q : PortState} {tx : Option HostPacket} (h : q.books = { p.books with tx := tx }) :
    BlocksReleased p q :=
  .of_slots (books_slots h)

theorem BlocksReleased.of_cleared {p q : PortState} (h : q.books = PortState.reset.books) : BlocksReleased p q :=
  ⟨fun i => by
    have hnone : PortState.reset.slot i = none := by simp [PortState.slot, PortState.reset]
    rw [slot_congr (books_slots h : q.slots = PortState.reset.slots), hnone]
    exact List.nil_sublist _⟩

/-- A slot rewritten to what holds no other blocks. -/
theorem released_setSlot {p : PortState} {i : Slot} {o : Option ReqRec}
    (h : (blocksAt o).Sublist (blocksAt (p.slot i))) : BlocksReleased p (p.setSlot i o) :=
  ⟨fun j => by
    rw [slot_setSlot]
    split
    · subst j; exact h
    · exact .refl _⟩

theorem released_rewrite {p : PortState} {i : Slot} {r q : ReqRec} (hr : p.slot i = some r) (hq : q.blocks = r.blocks) :
    BlocksReleased p (p.setSlot i (some q)) :=
  released_setSlot (by simp [hr, hq])

theorem released_vacate (i : Slot) (p : PortState) : BlocksReleased p (vacate i p) := by
  unfold vacate
  split
  · exact .refl p
  · exact (released_setSlot (i := i) (o := none) (List.nil_sublist _)).trans (.of_slots rfl)

theorem released_enterReady (i : Slot) (st : HostStatus) (p : PortState) : BlocksReleased p (enterReady i st p) := by
  cases hr : p.slot i with
  | none => simp only [enterReady, hr]; exact .refl p
  | some r =>
    rw [enterReady_of_some hr]
    exact (released_rewrite (q := { r with stage := .ready, status := some st, staging := [] }) hr rfl).trans
      (.of_slots rfl)

theorem released_fenceTest (p : PortState) : BlocksReleased p (fenceTest p) :=
  ⟨fun i => by rw [blocksAt, (examined_fenceTest p).blocks i, blocksAt]⟩

theorem released_readyTest (m : ErrorMap) (i : Slot) (p : PortState) : BlocksReleased p (readyTest m i p) := by
  unfold readyTest
  split
  · exact .refl p
  · rename_i r hr
    split
    · exact (released_rewrite (q := { r with firstFailure := failureAtReady m r }) hr rfl).trans
        (released_enterReady ..)
    · exact .refl p

theorem recordFailure_blocks (o : SubOutcome) (a : Nat) (r : ReqRec) : (recordFailure o a r).blocks = r.blocks := by
  unfold recordFailure
  split
  · rfl
  · split <;> rfl

theorem released_retireAt (m : ErrorMap) (i : Slot) (n : Nat) (o : SubOutcome) (p : PortState) :
    BlocksReleased p (retireAt m i n o p) := by
  unfold retireAt
  split
  · exact .refl p
  · split
    · exact .refl p
    · split
      · exact .refl p
      · split
        · exact .refl p
        · refine ((released_rewrite ‹_› ?_).trans (released_readyTest ..)).trans (released_fenceTest _)
          split
          · exact recordFailure_blocks ..
          · rfl

theorem released_endResponse (p : PortState) : BlocksReleased p (endResponse p) := by
  unfold endResponse
  split
  · rename_i i _ _ _ _ _
    exact BlocksReleased.trans (q := { p with tx := none, respQ := p.respQ.erase i }) (.of_slots rfl) (released_vacate ..)
  · exact .refl p

theorem released_enterHoldoff (now : Tick) (p : PortState) : BlocksReleased p (enterHoldoff now p) :=
  (BlocksReleased.of_books (books_cutOff .stopped p)).trans (.of_slots rfl)

theorem released_openSession (up : Bool) (mask : NoticeBits) (hdr data : Nat) (p : PortState) :
    BlocksReleased p (openSession up mask hdr data p) :=
  (BlocksReleased.of_books (books_cutOff .closed p)).trans (.of_slots rfl)

theorem released_raiseNotice (bits : NoticeBits) (p : PortState) : BlocksReleased p (raiseNotice bits p) :=
  .of_slots (raiseNotice_slots bits p)

theorem released_startIf {o : Outbound} {f : PortState → PortState} (hf : ∀ p, (f p).slots = p.slots) (p : PortState) :
    BlocksReleased p (startIf o f p) := by
  unfold startIf
  split
  · exact .of_slots (hf p)
  · exact .refl p

theorem startAnswer_slots (p : PortState) : (startAnswer p).slots = p.slots := by
  unfold startAnswer; split <;> rfl

theorem startResponse_slots (buffer : Memory) (p : PortState) : (startResponse buffer p).slots = p.slots := by
  unfold startResponse
  split
  · rfl
  · split <;> rfl

theorem endGrant_slots (p : PortState) : (endGrant p).slots = p.slots := by
  unfold endGrant; split <;> rfl

theorem endOther_slots (p : PortState) : (endOther p).slots = p.slots := by
  unfold endOther; split <;> rfl

/-! States in which blocks and claims have only left -/

/-- From `s` to `t` no block is reserved and no claim is entered; some may have left. -/
structure Releases (s t : State) : Prop where
  ports : ∀ h, BlocksReleased (s.port h) (t.port h)
  claims : t.arb.claims.Sublist s.arb.claims

theorem Releases.refl (s : State) : Releases s s := ⟨fun _ => .refl _, .refl _⟩

theorem Releases.trans {s t u : State} (h1 : Releases s t) (h2 : Releases t u) : Releases s u :=
  ⟨fun h => (h1.ports h).trans (h2.ports h), h2.claims.trans h1.claims⟩

/-- An operation that leaves the ports and the claims. -/
theorem Releases.of_eq {s t : State} (hports : t.ports = s.ports) (hclaims : t.arb.claims = s.arb.claims) :
    Releases s t :=
  ⟨fun h => .of_slots (by simp only [State.port, hports]), by rw [hclaims]⟩

/-- What a sound buffer is (R54, R57). -/
def BufferSound (s : State) : Prop := BlocksReservedOnce s ∧ OneClaimPerPort s

theorem Releases.keeps {s t : State} (h : Releases s t) (hs : BufferSound s) : BufferSound t := by
  obtain ⟨hblocks, hclaims⟩ := hs
  refine ⟨?_, hclaims.sublist (h.claims.map _)⟩
  unfold BlocksReservedOnce at hblocks ⊢
  rw [reservedBlocks_eq] at hblocks ⊢
  exact hblocks.sublist (.flatMap_right _ fun g _ => .flatMap_right _ fun i _ => (h.ports g).slots i)

theorem releases_modPort {s : State} {h : Port} {f : PortState → PortState}
    (hf : BlocksReleased (s.port h) (f (s.port h))) : Releases s (s.modPort h f) :=
  ⟨fun g => by
    rw [port_modPort]
    split
    · subst g; exact hf
    · exact .refl _, .refl _⟩

theorem releases_modPorts {f : PortState → PortState} (hf : ∀ p, BlocksReleased p (f p)) (s : State) :
    Releases s (s.modPorts f) :=
  ⟨fun h => by rw [port_modPorts]; exact hf _, .refl _⟩

theorem releases_foldl {α : Type} {f : State → α → State} (hf : ∀ s a, Releases s (f s a)) (l : List α) (s : State) :
    Releases s (l.foldl f s) :=
  foldl_keeps (P := Releases s) (fun a b h => h.trans (hf a b)) l (.refl s)

theorem releases_modTarget (s : State) (f : TargetLane → TargetLane) : Releases s (s.modTarget f) := .of_eq rfl rfl

theorem releases_setResult (c : BitVec 8) (r : CmdResult) (s : State) : Releases s (setResult c r s) := .of_eq rfl rfl

theorem releases_setTag (s : State) (t : Tag) (r : Option TagRec) : Releases s (s.setTag t r) := .of_eq rfl rfl

theorem releases_appendLog (e : LogEntry) (s : State) : Releases s (appendLog e s) := .of_eq (by simp) (by simp)

theorem releases_drainTest (s : State) : Releases s (drainTest s) := .of_eq (by simp) (by simp)

theorem releases_reportAll (s : State) : Releases s (reportAll s) :=
  releases_modPorts (fun p => .of_slots (report_slots p)) s

theorem releases_fenceTest (h : Port) (s : State) : Releases s (s.modPort h fenceTest) :=
  releases_modPort (released_fenceTest _)

theorem releases_raiseNotice (h : Port) (bits : NoticeBits) (s : State) :
    Releases s (s.modPort h (raiseNotice bits)) :=
  releases_modPort (released_raiseNotice ..)

theorem endPortHold_claims (h : Port) (a : Arbiter) : (endPortHold h a).claims = a.claims := by
  unfold endPortHold; split <;> rfl

/-- The claims of a port leave the queue (R58). -/
theorem Releases.dropClaim {s t : State} (h : Releases s t) (g : Port) :
    Releases s { t with arb := Machine.dropClaim g t.arb } :=
  ⟨h.ports, List.filter_sublist.trans h.claims⟩

theorem releases_retire (h : Port) (i : Slot) (n : Nat) (o : SubOutcome) (s : State) :
    Releases s (retire h i n o s) := by
  refine ⟨fun g => ?_, ?_⟩
  · rw [retire_port]
    split
    · subst g; exact released_retireAt ..
    · exact .refl _
  · rcases retire_arb h i n o s with e | e <;> rw [e]
    rw [endPortHold_claims]

theorem releases_retireAll (o : SubOutcome) (es : List (Port × Slot × Nat × Tag)) (s : State) :
    Releases s (retireAll o es s) :=
  releases_foldl (fun a (e : Port × Slot × Nat × Tag) => releases_retire e.1 e.2.1 e.2.2.1 o a) es s

theorem releases_portResetTaken (h : Port) (c : EndCause) (s : State) : Releases s (portResetTaken h c s) := by
  refine ⟨fun g => ?_, ?_⟩
  · by_cases hg : g = h
    · subst hg
      rw [portResetTaken_port_same]
      exact .of_cleared (books_resetPort ..)
    · rw [portResetTaken_port_ne c s hg]
      exact .refl _
  · rw [(portResetTaken_arb h c s).2.2]
    exact List.filter_sublist

theorem releases_enterHoldoff (h : Port) (s : State) : Releases s (s.modPort h (enterHoldoff s.timebase)) :=
  releases_modPort (released_enterHoldoff ..)

/-! The target lane -/

theorem releases_dropPost (h : Port) (i : Slot) (s : State) : Releases s (dropPost h i s) := by
  unfold dropPost
  split
  · exact .refl s
  · exact (releases_appendLog _ s).trans (releases_modPort
      (((released_vacate ..).trans (released_raiseNotice ..)).trans (.of_slots rfl)))

theorem releases_failRecord (h : Port) (i : Slot) (s : State) : Releases s (failRecord h i s) := by
  have hready : Releases s (s.modPort h (enterReady i .unavailable)) := releases_modPort (released_enterReady ..)
  unfold failRecord
  split
  · exact .refl s
  · split
    · split
      · exact hready.dropClaim h
      · exact hready
      · exact releases_dropPost h i s
      · exact .refl s
    · exact .refl s

theorem releases_failPorts (s : State) : Releases s (failPorts s) := by
  refine releases_foldl (fun a h => ?_) _ s
  split
  · exact releases_foldl (fun b i => (releases_failRecord h i b).trans (releases_fenceTest h _)) _ a
  · exact .refl a

theorem releases_releaseAll (s : State) : Releases s (releaseAll s) := by
  have h := releases_retireAll .linkDown (liveEntries s) s
  unfold releaseAll
  dsimp only
  split
  · exact h.trans (.of_eq rfl rfl)
  · exact h.trans (.of_eq rfl rfl)

theorem releases_targetLoss (c : DownCause) (s : State) : Releases s (targetLoss c s) := by
  unfold targetLoss
  exact ((((releases_modTarget ..).trans (releases_releaseAll _)).trans (releases_failPorts _)).trans
    (releases_modPorts (released_raiseNotice _) _)).trans (releases_appendLog ..)

theorem releases_loseTarget (s : State) : Releases s (loseTarget s) := by
  have h1 := releases_modTarget s fun l => { l with carrier := false }
  unfold loseTarget
  dsimp only
  split
  · exact h1.trans (releases_modTarget ..)
  · exact h1.trans (releases_targetLoss ..)
  · exact h1
  · exact h1

theorem releases_downWith (c : DownCause) (s : State) : Releases s (downWith c s) := by
  unfold downWith
  split
  · exact releases_modTarget ..
  · exact releases_targetLoss c s
  · exact .refl s
  · exact .refl s

theorem releases_endStranded (m : Mrs) (h : Port) (i : Slot) (s : State) : Releases s (endStranded m h i s) := by
  unfold endStranded
  split
  · exact .refl s
  · split
    · split
      · exact (releases_dropPost ..).trans (releases_fenceTest h _)
      · exact releases_modPort (((released_rewrite ‹_› (recordFailure_blocks ..)).trans (released_readyTest ..)).trans
          (released_fenceTest _))
    · exact .refl s

theorem releases_takeTrainAck (hdr data size : Nat) (s : State) : Releases s (takeTrainAck hdr data size s) := by
  unfold takeTrainAck
  split
  · split
    · unfold bringUp endAllStranded
      exact ((((releases_modTarget ..).trans
        (releases_foldl (fun a h => releases_foldl (fun b i => releases_endStranded _ h i b) _ a) _ _)).trans
        (releases_modPorts (released_raiseNotice _) _)).trans (releases_modTarget ..)).trans (releases_drainTest _)
    · exact releases_modTarget ..
  · exact .refl s
  · exact .refl s
  · exact .refl s

theorem releases_takeTcredit (hdr data : Nat) (s : State) : Releases s (takeTcredit hdr data s) := by
  unfold takeTcredit
  split
  · exact releases_modTarget ..
  · exact releases_targetLoss ..

theorem releases_detectTarget (s : State) : Releases s (detectTarget s) := by
  unfold detectTarget
  dsimp only
  split <;> exact .of_eq rfl rfl

theorem releases_takeTrainEnd (s : State) : Releases s (takeTrainEnd s) := by
  unfold takeTrainEnd
  split
  · split
    · exact releases_modTarget ..
    · exact .refl s
  · exact .refl s

theorem releases_endTargetHoldoff (s : State) : Releases s (endTargetHoldoff s) := by
  unfold endTargetHoldoff
  split
  · split
    · split <;> exact releases_modTarget ..
    · exact .refl s
  · exact .refl s

/-! Completion parts -/

theorem releases_lapse (t : Tag) (r : TagRec) (s : State) : Releases s (lapse t r s) := by
  rw [lapse_eq]
  exact releases_setTag ..

theorem releases_acceptData (t : Tag) (r : TagRec) (d : Tick) (n : Nat) (s : State) :
    Releases s (acceptData t r d n s) := by
  rw [acceptData_eq]
  exact releases_setTag ..

theorem releases_placeData (r : TagRec) (poisoned : Bool) (data : List Byte) (s : State) :
    Releases s (placeData r poisoned data s) := by
  unfold placeData
  split
  · exact .refl s
  · rename_i q x hq
    extract_lets s1
    have h1 : Releases s s1 := .of_eq rfl rfl
    split
    · exact h1.trans (releases_modPort (released_rewrite (entryOf_eq_some hq :) rfl))
    · exact h1

theorem releases_livePart (t : Tag) (r : TagRec) (d : Tick) (q : Part) (s : State) : Releases s (livePart t r d q s) := by
  unfold livePart
  split
  · exact ((releases_lapse ..).trans (releases_appendLog ..)).trans (releases_retire ..)
  · unfold takeRetry
    split
    · exact releases_setTag ..
    · exact ((releases_setTag ..).trans (releases_appendLog ..)).trans (releases_retire ..)
  · exact (releases_setTag ..).trans (releases_retire ..)
  · have haccept := (releases_placeData r ‹_› q.data s).trans (releases_acceptData t r d q.data.length _)
    dsimp only
    split
    · exact haccept.trans (releases_retire ..)
    · exact haccept

theorem releases_orphanPart (t : Tag) (r : TagRec) (d : Tick) (q : Part) (s : State) :
    Releases s (orphanPart t r d q s) := by
  unfold orphanPart
  split
  · exact (releases_lapse ..).trans (releases_appendLog ..)
  · exact releases_setTag ..
  · exact releases_setTag ..
  · exact releases_acceptData ..

theorem releases_takePart (t : Tag) (q : Part) (s : State) : Releases s (takePart t q s) := by
  unfold takePart
  split
  · exact releases_appendLog ..
  · rename_i r _
    have hrun (d : Tick) : Releases s (if r.orphaned then orphanPart t r d q s else livePart t r d q s) := by
      split
      · exact releases_orphanPart ..
      · exact releases_livePart ..
    split
    · exact releases_appendLog ..
    · exact releases_appendLog ..
    · exact hrun _
    · exact hrun _

/-! Host lanes and sessions -/

theorem releases_attachHandshake (h : Port) (mask : NoticeBits) (hdr data : Nat) (s : State) :
    Releases s (attachHandshake h mask hdr data s) := by
  unfold attachHandshake
  split
  · exact releases_modPort (.of_slots rfl)
  · exact (releases_modPort (released_openSession ..)).trans (.of_eq rfl rfl)

theorem releases_takeAttach (h : Port) (mask : NoticeBits) (hdr data : Nat) (s : State) :
    Releases s (takeAttach h mask hdr data s) := by
  unfold takeAttach
  split
  · exact releases_attachHandshake ..
  · exact releases_attachHandshake ..
  · exact (releases_portResetTaken ..).trans (releases_attachHandshake ..)
  · exact .refl s
  · exact .refl s

theorem releases_portResetOnLane (h : Port) (s : State) : Releases s (portResetOnLane h s) := by
  unfold portResetOnLane
  split
  · exact releases_portResetTaken ..
  · exact releases_enterHoldoff h s
  · exact releases_enterHoldoff h s
  · exact .refl s
  · exact .refl s

theorem releases_disableLane (h : Port) (s : State) : Releases s (disableLane h s) := by
  unfold disableLane
  split
  · exact releases_portResetTaken ..
  · exact releases_enterHoldoff h s
  · exact .refl s
  · exact .refl s
  · exact .refl s

theorem releases_failCheck (h : Port) (s : State) : Releases s (failCheck h s) := by
  unfold failCheck
  split
  · exact releases_enterHoldoff h s
  · exact releases_enterHoldoff h s
  · exact releases_portResetTaken ..
  · exact .refl s
  · exact .refl s

theorem releases_carrier (h : Port) (b : Bool) (s : State) : Releases s (s.modPort h fun p => { p with carrier := b }) :=
  releases_modPort (.of_slots rfl)

theorem releases_loseCarrier (h : Port) (s : State) : Releases s (loseCarrier h s) := by
  have h1 := releases_carrier h false s
  have hlost (a : State) : Releases a (a.modPort h fun p => enterDown (cutOff .closed p)) :=
    releases_modPort ((BlocksReleased.of_books (books_cutOff .closed (a.port h))).trans (.of_slots rfl))
  unfold loseCarrier
  dsimp only
  split
  · exact h1.trans (hlost _)
  · exact h1.trans (hlost _)
  · exact h1.trans (releases_portResetTaken ..)
  · exact h1
  · exact h1

theorem releases_endHoldoff (h : Port) (s : State) : Releases s (endHoldoff h s) := by
  unfold endHoldoff
  split
  · exact releases_modPort (.of_slots rfl)
  · exact .refl s

theorem releases_takeStallExpiry (h : Port) (s : State) : Releases s (takeStallExpiry h s) := by
  unfold takeStallExpiry
  split
  · have hlog (e : LogEntry) : Releases s (raiseEvent (eventStall h) (appendLog e s)) :=
      (releases_appendLog ..).trans (.of_eq rfl rfl)
    dsimp only
    split
    · exact (hlog _).trans (releases_modPort (.of_slots rfl))
    · exact (hlog _).trans (releases_portResetTaken ..)
    · exact (hlog _).trans (releases_portResetTaken ..)
  · exact .refl s

/-! Tags and time -/

theorem releases_expireTag (t : Tag) (s : State) : Releases s (expireTag t s) := by
  unfold expireTag
  split
  · exact .refl s
  · dsimp only
    split
    · exact .refl s
    · exact .of_eq rfl rfl
    · exact (releases_lapse ..).trans (releases_appendLog ..)
    · exact (releases_lapse ..).trans (releases_appendLog ..)

theorem releases_takeDeadlines (s : State) : Releases s (takeDeadlines s) :=
  ((releases_foldl (fun a t => releases_expireTag t a) _ s).trans (releases_retireAll ..)).trans (releases_drainTest _)

theorem releases_takeBackoffEnds (s : State) : Releases s (takeBackoffEnds s) := by
  refine releases_foldl (fun a t => ?_) _ s
  unfold endBackoff
  split
  · exact .refl a
  · split
    · exact .of_eq rfl rfl
    · exact .refl a

theorem releases_takeQuarantineEnds (s : State) : Releases s (takeQuarantineEnds s) :=
  releases_foldl (fun a t => releases_setTag a t none) _ s

theorem releases_takeDrainLimit (s : State) : Releases s (takeDrainLimit s) := by
  unfold takeDrainLimit
  split
  · exact .refl s
  · split
    · exact .of_eq (by simp) (by simp)
    · exact .refl s

theorem releases_closeTick (s : State) : Releases s (closeTick s) :=
  ((((((((releases_takeDeadlines s).trans (releases_reportAll _)).trans (releases_takeBackoffEnds _)).trans
    (releases_takeQuarantineEnds _)).trans (releases_takeDrainLimit _)).trans
    (releases_foldl (fun a h => releases_takeStallExpiry h a) allPorts _)).trans
    (releases_foldl (fun a h => releases_endHoldoff h a) allPorts _)).trans (releases_endTargetHoldoff _)).trans
    (releases_takeTrainEnd _)

theorem releases_advance (s : State) : Releases s (advance s) :=
  Releases.trans (t := { s with timebase := s.timebase + 1 }) (.of_eq rfl rfl)
    (releases_foldl (f := fun a h => a.modPort h (stallTick (s.portPolicy h).stallWindow))
      (fun _ _ => releases_modPort (.of_books (books_stallTick ..))) allPorts _)

/-! Requests -/

theorem releases_dropAtIntake (h : Port) (r : ReqRec) (addr : BitVec 48) (st : HostStatus) (s : State) :
    Releases s (dropAtIntake h r addr st s) := by
  unfold dropAtIntake
  refine Releases.trans (releases_modPort (.of_slots ?_)) (releases_appendLog ..)
  exact raiseNotice_slots noticePostedRejected (giveBack 1 r.staging.length (s.port h))

theorem releases_malformedRequest (h : Port) (d n : Nat) (s : State) : Releases s (malformedRequest h d n s) := by
  unfold malformedRequest
  refine Releases.trans (releases_modPort (.of_slots ?_)) (releases_appendLog ..)
  exact raiseNotice_slots noticeMalformedRequest (giveBack 1 n (s.port h))

/-- A request takes its place in a VACANT slot, and holds no block yet (R25, R55). -/
theorem releases_admitRequest {s : State} {h : Port} {i : Slot} {r : ReqRec} (hr : r.blocks = []) (id : HostId)
    (addr : BitVec 48) : Releases s (admitRequest h i r id addr s) := by
  have hslot (q : ReqRec) (hq : q.blocks = []) (p : PortState) : BlocksReleased p (p.setSlot i (some q)) :=
    released_setSlot (by simp [hq])
  have hreject (q : ReqRec) (hq : q.blocks = []) (st : HostStatus) : Releases s (rejectRequest h i q st s) :=
    releases_modPort ((hslot { q with rejected := true } hq _).trans (released_enterReady ..))
  unfold admitRequest
  split
  · exact hreject r hr _
  · dsimp only
    split
    · exact releases_modPort ((hslot _ (by exact hr) _).trans (released_fenceTest _))
    · split
      · exact releases_modPort (hslot _ (by exact hr) _)
      · split
        · exact releases_dropAtIntake ..
        · exact hreject _ (by exact hr) _

theorem releases_intake (h : Port) (kind : BitVec 8) (id : HostId) (cls : BitVec 2) (addr : BitVec 48) (len : Nat)
    (data : List Byte) (i : Slot) (blocks : List StageBlock) (s : State) :
    Releases s (intake h kind id cls addr len data i blocks s) := by
  have hconsume : Releases s (s.modPort h (consume blocks data)) := releases_modPort (.of_slots rfl)
  unfold intake
  dsimp only
  split
  · exact hconsume.trans (releases_malformedRequest ..)
  · exact hconsume.trans (releases_admitRequest rfl id addr)

theorem releases_request {s t : State} {h : Port} {kind : BitVec 8} {id : HostId} {cls : BitVec 2} {addr : BitVec 48}
    {len : BitVec 16} {data : List Byte} (ht : exec (.request h kind id cls addr len data) s = .next t) :
    Releases s t := by
  rcases execRequest_cases h kind id cls addr len data s with he | he | ⟨i, blocks, -, he⟩ | ⟨-, -, f, he⟩ <;>
    rw [he] at ht <;> cases ht
  · exact .refl s
  · exact ((releases_raiseNotice ..).trans (releases_appendLog ..)).trans (releases_reportAll _)
  · exact (releases_intake ..).trans (releases_reportAll _)

/-! Commands of the management port, and resets -/

theorem releases_startDrain (size : Mrs) (s : State) : Releases s (startDrain size s) := by
  unfold startDrain
  refine Releases.trans ?_ (releases_drainTest _)
  exact .of_eq rfl rfl

theorem releases_commandReshape (b : BitVec 16) (s : State) : Releases s (commandReshape b s) := by
  unfold commandReshape
  split
  · exact releases_setResult ..
  · split
    · exact releases_setResult ..
    · exact (releases_startDrain ..).trans (releases_setResult ..)

theorem releases_commandPortReset (a : BitVec 8) (s : State) : Releases s (commandPortReset a s) := by
  unfold commandPortReset
  split
  · exact releases_setResult ..
  · exact (releases_portResetOnLane ..).trans (releases_setResult ..)

theorem releases_commandTargetReset (s : State) : Releases s (commandTargetReset s) :=
  (releases_downWith ..).trans (releases_setResult ..)

theorem releases_commandTableFetch (a : BitVec 8) (b : BitVec 16) (s : State) :
    Releases s (commandTableFetch a b s) := by
  unfold commandTableFetch
  split <;> exact .of_eq rfl rfl

theorem releases_noticeChange (h : Port) (b : Bool) (s : State) : Releases s (noticeChange h b s) := by
  unfold noticeChange
  split
  · exact releases_raiseNotice ..
  · exact .refl s

theorem releases_commitTable {s t : State} {x : TableIndex} (ht : commitTable x s = some t) : Releases s t := by
  cases x with
  | port h =>
    simp only [commitTable, commitPort] at ht
    split at ht
    · cases ht
    · rename_i p _
      split at ht
      · cases ht
        have h1 : Releases s (setPortPolicy h p s) := .of_eq rfl rfl
        refine Releases.trans ?_ (releases_noticeChange ..)
        split
        · exact h1
        · exact h1.trans (releases_disableLane ..)
      · cases ht
  | window i =>
    simp only [commitTable, commitWindow] at ht
    split at ht
    · cases ht
      have h1 : Releases s (setWindow i (stagedWindow s.mgmt.staging) s) := .of_eq rfl rfl
      exact h1.trans (releases_noticeChange ..)
    · cases ht
  | global =>
    obtain ⟨g, -, rfl⟩ := Option.map_eq_some_iff.1 ht
    exact .of_eq rfl rfl

theorem releases_commandTableCommit (a : BitVec 8) (b : BitVec 16) (s : State) :
    Releases s (commandTableCommit a b s) := by
  unfold commandTableCommit
  split
  · exact releases_setResult ..
  · split
    · exact releases_setResult ..
    · exact (releases_commitTable ‹_›).trans (releases_setResult ..)

/-- A part reset leaves no block reserved and no claim (R47, R73). -/
theorem releases_resetBlocks (c : ResetCause) (l : FaultLog) {f : PortState → PortState} (g : TargetLane → TargetLane)
    (hf : ∀ p, (f p).books = PortState.reset.books) (s : State) : Releases s (resetBlocks c l f g s) :=
  ⟨fun h => .of_cleared (by simp [resetBlocks, State.port, hf]), List.nil_sublist _⟩

theorem releases_hardReset (c : ResetCause) (s : State) : Releases s (hardReset c s) :=
  releases_resetBlocks _ _ _ (books_freshPort none) s

theorem releases_commandSoftReset (s : State) : Releases s (commandSoftReset s) :=
  (releases_resetBlocks _ _ _ (fun _ => books_freshPort ..) s).trans (releases_setResult ..)

theorem releases_beginHold (c : HoldCause) (s : State) : Releases s (beginHold c s) :=
  (releases_modPorts (fun p => .of_books (books_cutOff .stopped p)) s).trans (.of_eq rfl rfl)

theorem releases_takeCommandWord (w : Word) (s : State) : Releases s (takeCommandWord w s) := by
  unfold takeCommandWord
  split
  · exact releases_setResult ..
  · exact releases_commandPortReset ..
  · exact (releases_commandTargetReset s).trans (releases_reportAll _)
  · exact releases_commandSoftReset s
  · exact releases_commandReshape ..
  · exact .of_eq rfl rfl
  · exact .of_eq rfl rfl
  · exact releases_commandTableFetch ..
  · exact (releases_commandTableCommit ..).trans (releases_reportAll _)

theorem releases_writeRegister (a : BitVec 16) (w : Word) (s : State) : Releases s (writeRegister a w s) := by
  unfold writeRegister
  split
  · exact .of_eq rfl rfl
  · split
    · exact .of_eq rfl rfl
    · split
      · exact releases_takeCommandWord w s
      · unfold writeStaging
        split <;> exact .of_eq rfl rfl

end Sys2Proof.Machine
end

section
/-! SUPPORT. That evaluations and grants keep the blocks singly reserved and one claim a port, up to the step. -/

namespace Sys2Proof.Machine

/-! Evaluations (R51, R57, R63) -/

theorem claimDue_eq_some {s : State} {h : Port} {n : Nat} :
    claimDue s h = some n ↔ ∃ x, issueHead s h = some x ∧ x.reserves = true ∧ n = x.record.blockNeed ∧
      (∀ c ∈ s.arb.claims, c.1 ≠ h) ∧ s.arb.reshape = .idle ∧
      (s.port h).reserved + n ≤ (s.portPolicy h).blockCeiling ∧ (freeBlocks s).length < n := by
  unfold claimDue
  cases issueHead s h with
  | none => simp
  | some x =>
    simp only [Option.ite_none_right_eq_some, Option.some.injEq, Bool.and_eq_true, decide_eq_true_eq, beq_iff_eq,
      Bool.not_eq_true', List.any_eq_false, exists_eq_left', and_assoc]
    constructor
    · rintro ⟨h1, h2, h3, h4, h5, rfl⟩
      exact ⟨h1, rfl, h2, h3, h4, h5⟩
    · rintro ⟨h1, rfl, h2, h3, h4, h5⟩
      exact ⟨h1, h2, h3, h4, h5, rfl⟩

theorem releases_ceilingStep (h : Port) (s : State) : Releases s (ceilingStep h s) := by
  unfold ceilingStep
  split
  · exact .refl s
  · rename_i i _
    have hready : Releases s (s.modPort h fun p => fenceTest (enterReady i .badRequest p)) :=
      releases_modPort ((released_enterReady ..).trans (released_fenceTest _))
    exact hready.dropClaim h

theorem releases_ceilingRetires (s : State) : Releases s (ceilingRetires s) :=
  releases_foldl (f := fun a h => repeated (ceilingStep h) 16 a)
    (fun a h => repeated_keeps (P := Releases a) (fun b hb => hb.trans (releases_ceilingStep h b)) 16 (.refl a)) _ s

/-- The ports of the claims due are among those that the round-robin tries, in its order. -/
theorem claimsDue_ports (s : State) (l : List Port) :
    ((l.filterMap fun h => (claimDue s h).map fun n => (h, n)).map Prod.fst) =
      l.filter fun h => (claimDue s h).isSome := by
  induction l with
  | nil => rfl
  | cons h l ih => cases hc : claimDue s h <;> simp [hc, ih]

/-- A claim is entered for a port that has none, once each (R57). -/
theorem enterClaims_keeps_bufferSound {s : State} (hs : BufferSound s) : BufferSound (enterClaims s) := by
  obtain ⟨hblocks, hclaims⟩ := hs
  refine ⟨hblocks, ?_⟩
  show ((s.arb.claims ++ _).map Prod.fst).Nodup
  rw [List.map_append, claimsDue_ports]
  refine hclaims.append ((roundRobin_sorted _).imp (fun h e => ?_) |>.filter _) fun h hold hdue => ?_
  · rw [e] at h
    exact lt_irrefl _ h
  · obtain ⟨n, hn⟩ := Option.isSome_iff_exists.1 (List.mem_filter.1 hdue).2
    obtain ⟨-, -, -, -, hnew, -⟩ := claimDue_eq_some.1 hn
    obtain ⟨c, hc, rfl⟩ := List.mem_map.1 hold
    exact hnew c hc rfl

theorem releases_settleHold (s : State) : Releases s (settleHold s) := by
  unfold settleHold
  split <;> exact .of_eq rfl rfl

theorem evaluate_keeps_bufferSound {s : State} (hs : BufferSound s) : BufferSound (evaluate s) :=
  (releases_settleHold _).keeps (enterClaims_keeps_bufferSound ((releases_ceilingRetires s).keeps hs))

/-! Grants (R55, R60, R62) -/

theorem advancePointer_claims (h : Port) (w : Nat) (a : Arbiter) : (advancePointer h w a).claims = a.claims := by
  simp only [advancePointer, apply_ite Arbiter.claims, ite_self]

theorem claims_grantedArb_sublist (h : Port) (w : Nat) (claim : Bool) (a : Arbiter) :
    (grantedArb h w claim a).claims.Sublist a.claims := by
  have hmove : (advancePointer h w (endPortHold h a)).claims = a.claims := by
    rw [advancePointer_claims, endPortHold_claims]
  unfold grantedArb
  split
  · rw [← hmove]
    exact List.filter_sublist
  · rw [hmove]

theorem freeBlocks_nodup (s : State) : (freeBlocks s).Nodup := (freeBlocks_sorted s).imp ne_of_lt

/-- The granted record in its slot, before all else that a grant does. -/
def slotGranted (h : Port) (x : Head) (tag : Option Tag) (s : State) : State :=
  s.modPort h fun p => p.setSlot x.slot (some (grantedRecord x tag ((freeBlocks s).take x.record.blockNeed)))

/-- The blocks that a grant reserves are free and distinct (R55). -/
theorem slotGranted_keeps_bufferSound {s : State} {h : Port} {x : Head} (hr : (s.port h).slot x.slot = some x.record)
    (tag : Option Tag) (hs : BufferSound s) : BufferSound (slotGranted h x tag s) := by
  by_cases hres : x.reserves = true
  · refine ⟨blocksReservedOnce_setSlot hs.1 h x.slot ?_ fun b hb => ?_, hs.2⟩ <;>
      simp only [blocksAt_some, grantedRecord_blocks, if_pos hres] at *
    · exact (freeBlocks_nodup s).sublist (List.take_sublist ..)
    · exact mem_freeBlocks.1 (List.mem_of_mem_take hb)
  · exact (releases_modPort (released_rewrite hr (by rw [grantedRecord_blocks, if_neg hres]))).keeps hs

/-- After the granted record is in its slot, the grant reserves no more blocks: the last piece of a POST leaves its slot, and
a claim may leave the queue (R39, R58). -/
theorem releases_granted {s : State} {h : Port} {x : Head} (hr : (s.port h).slot x.slot = some x.record)
    (tag : Option Tag) : Releases (slotGranted h x tag s) (granted h x tag s) := by
  refine ⟨fun g => ?_, ?_⟩
  · by_cases hg : g = h
    · subst hg
      rw [granted_port, slotGranted, port_modPort_same]
      refine BlocksReleased.trans ?_ (released_fenceTest _)
      unfold grantSlot
      split
      · rw [vacate_of_some hr]
        exact (released_setSlot (i := x.slot) (o := none) (List.nil_sublist _)).trans (.of_slots (by simp [PortState.setSlot]))
      · exact .refl _
    · have hport : (granted h x tag s).port g = s.port g := by
        have htag : (tagTaken h x tag s).port g = s.port g :=
          (congrArg (fun a : State => a.port g) (tagTaken_frame h x tag s) :)
        rw [← htag]
        unfold granted
        rw [port_with_arb_target, port_modPort_ne _ _ hg]
      rw [hport, slotGranted, port_modPort_ne _ _ hg]
      exact .refl _
  · rw [granted_arb]
    exact claims_grantedArb_sublist ..

theorem grantWith_keeps_bufferSound {s : State} {h : Port} {x : Head} (hx : HeadIs s h x) (tag : Option Tag)
    (hs : BufferSound s) : BufferSound (grantWith h x tag s) := by
  obtain ⟨-, hr, -⟩ := hx
  rw [grantWith_eq]
  exact ((releases_granted hr tag).trans (releases_drainTest _)).keeps (slotGranted_keeps_bufferSound hr tag hs)

theorem issueGrantStep_keeps_bufferSound {s : State} (hs : BufferSound s) : BufferSound (issueGrantStep s) := by
  have h1 := evaluate_keeps_bufferSound hs
  unfold issueGrantStep
  dsimp only
  split
  · exact h1
  · split
    · rename_i h x hsel
      exact grantWith_keeps_bufferSound (eligibleHead_eq_some.1 (selectPort_eq_some.1 hsel).1).1 _ h1
    · exact h1

/-- A retry is granted without a block and without a claim (R62). -/
theorem releases_grantRetry (t : Tag) (r : TagRec) (d : Tick) (s : State) : Releases s (grantRetry t r d s) :=
  .of_eq rfl rfl

theorem retryGrantStep_keeps_bufferSound {s : State} (hs : BufferSound s) : BufferSound (retryGrantStep s) := by
  have h1 := evaluate_keeps_bufferSound hs
  unfold retryGrantStep
  dsimp only
  split
  · exact (releases_grantRetry ..).keeps h1
  · exact h1

/-! The step -/

theorem takes_releases {s t : State} {f : State → State} (hf : ∀ a, Releases a (f a)) (ht : takes f s = .next t)
    (hs : BufferSound s) : BufferSound t :=
  takes_keeps (fun a => (hf a).keeps) hs ht

/-- An event that only releases, and the reports after it. -/
theorem takes_releases_reported {s t : State} {f : State → State} (hf : ∀ a, Releases a (f a))
    (ht : takes (fun a => reportAll (f a)) s = .next t) (hs : BufferSound s) : BufferSound t :=
  takes_releases (fun a => (hf a).trans (releases_reportAll _)) ht hs

/-- An event taken under a condition. -/
theorem releases_when (c : State → Bool) {f : State → State} (hf : ∀ a, Releases a (f a)) (s : State) :
    Releases s (if c s then f s else s) := by
  split
  · exact hf s
  · exact .refl s

/-- An event of one port, and the reports after it. -/
theorem takes_released {s t : State} {h : Port} (f : State → PortState → PortState)
    (hf : ∀ a p, BlocksReleased p (f a p)) (ht : takes (fun s => reportAll (s.modPort h (f s))) s = .next t)
    (hs : BufferSound s) : BufferSound t :=
  takes_releases_reported (fun a => releases_modPort (hf a _)) ht hs

/-- A phase of an evaluation, or its grant, and the reports after it. -/
theorem takes_evaluation {s t : State} {f : State → State} (hf : ∀ a, BufferSound a → BufferSound (f a))
    (ht : takes (fun a => reportAll (atOpportunity f a)) s = .next t) (hs : BufferSound s) : BufferSound t :=
  takes_keeps (fun _ ha => (releases_reportAll _).keeps (atOpportunity_keeps hf ha)) hs ht

theorem releases_invalidCommand (w : Word) (s : State) :
    Releases s (if commandInRange w then s else answerInvalid (commandCode w) s) := by
  split
  · exact .refl s
  · exact releases_setResult ..

/-- Every command keeps the blocks singly reserved and one claim a port. -/
theorem exec_keeps_bufferSound {c : Instr} {s t : State} (ht : exec c s = .next t) (hs : BufferSound s) :
    BufferSound t := by
  cases c with
  | tickEvent => exact takes_releases (fun a => (releases_closeTick a).trans (releases_advance _)) ht hs
  | deadlineExpiry => exact takes_releases_reported releases_takeDeadlines ht hs
  | backoffEnd => exact takes_releases releases_takeBackoffEnds ht hs
  | quarantineEnd => exact takes_releases releases_takeQuarantineEnds ht hs
  | drainLimitExpiry => exact takes_releases releases_takeDrainLimit ht hs
  | drainComplete => exact takes_releases releases_drainTest ht hs
  | stallExpiry h => exact takes_releases (releases_takeStallExpiry h) ht hs
  | hostCarrierDetect h =>
    cases ht
    refine Releases.keeps ?_ hs
    split
    · exact releases_carrier h true s
    · exact releases_modPort (.of_slots rfl)
  | hostCarrierLoss h =>
    cases ht
    refine Releases.keeps ?_ hs
    split
    · exact releases_carrier h false s
    · exact releases_loseCarrier h s
  | hostCheckFailure h => exact takes_releases (releases_failCheck h) ht hs
  | hostHoldoffEnd h => exact takes_releases (releases_endHoldoff h) ht hs
  | attach h mask hdr data => exact takes_releases_reported (releases_takeAttach h mask hdr.toNat data.toNat) ht hs
  | request h kind id cls addr len data => exact (releases_request ht).keeps hs
  | credit h hdr data =>
    exact takes_releases (releases_when (fun a => (a.port h).isActive) fun a =>
      (releases_modPort (f := takeCredit hdr.toNat data.toNat) (.of_slots rfl)).trans (releases_reportAll _)) ht hs
  | noticeAck h bits =>
    exact takes_releases (releases_when (fun a => (a.port h).isActive) fun a =>
      (releases_modPort (.of_books (books_acknowledge bits _))).trans (releases_reportAll _)) ht hs
  | hostUnusablePacket h bytes => exact takes_releases .refl ht hs
  | attachAnswerStart h =>
    exact takes_released (fun _ => startIf .answer startAnswer) (fun _ => released_startIf startAnswer_slots) ht hs
  | grantTransmissionStart h =>
    exact takes_released (fun _ => startIf .grant startGrant) (fun _ => released_startIf fun _ => rfl) ht hs
  | noticeTransmissionStart h =>
    exact takes_released (fun _ => startIf .notice startNotice) (fun _ => released_startIf fun _ => rfl) ht hs
  | responseTransmissionStart h =>
    exact takes_released (fun s => startIf .response (startResponse s.buffer))
      (fun _ => released_startIf (startResponse_slots _)) ht hs
  | responseTransmissionEnd h => exact takes_released (fun _ => endResponse) (fun _ => released_endResponse) ht hs
  | grantTransmissionEnd h =>
    exact takes_released (fun _ => endGrant) (fun _ p => .of_slots (endGrant_slots p)) ht hs
  | hostTransmissionEnd h => exact takes_released (fun _ => endOther) (fun _ p => .of_slots (endOther_slots p)) ht hs
  | targetCarrierDetect =>
    cases ht
    refine Releases.keeps ?_ hs
    split
    · exact releases_modTarget ..
    · exact releases_detectTarget s
  | targetCarrierLoss =>
    cases ht
    refine Releases.keeps ?_ hs
    split
    · exact releases_modTarget ..
    · exact (releases_loseTarget s).trans (releases_reportAll _)
  | targetCheckFailure => exact takes_releases_reported (releases_downWith .protocol) ht hs
  | trainAck hdr data size => exact takes_releases_reported (releases_takeTrainAck hdr.toNat data.toNat size.toNat) ht hs
  | trainEndTickExpiry => exact takes_releases releases_takeTrainEnd ht hs
  | targetHoldoffEnd => exact takes_releases releases_endTargetHoldoff ht hs
  | tcpl tag status remaining data =>
    exact takes_releases (releases_when State.targetUp fun a =>
      ((releases_takePart tag ⟨status, remaining.toNat, data⟩ a).trans (releases_drainTest _)).trans
        (releases_reportAll _)) ht hs
  | tcredit hdr data =>
    exact takes_releases (releases_when State.targetUp fun a =>
      (releases_takeTcredit hdr.toNat data.toNat a).trans (releases_reportAll _)) ht hs
  | targetUnusablePacket bytes => exact takes_releases .refl ht hs
  | treqTransmissionEnd => exact takes_releases (fun a => releases_modTarget a endTreq) ht hs
  | issueGrant => exact takes_evaluation (fun _ => issueGrantStep_keeps_bufferSound) ht hs
  | retryGrant => exact takes_evaluation (fun _ => retryGrantStep_keeps_bufferSound) ht hs
  | claimEntry =>
    exact takes_evaluation (f := fun a => enterClaims (ceilingRetires a))
      (fun a ha => enterClaims_keeps_bufferSound ((releases_ceilingRetires a).keeps ha)) ht hs
  | dataCreditHold => exact takes_evaluation (fun _ => evaluate_keeps_bufferSound) ht hs
  | readCeilingRetire => exact takes_evaluation (fun a => (releases_ceilingRetires a).keeps) ht hs
  | fenceReady h => exact takes_released (fun _ => fenceTest) (fun _ => released_fenceTest) ht hs
  | eventPendingWrite w => exact takes_releases (f := writePending w) (fun _ => .of_eq rfl rfl) ht hs
  | eventEnableWrite w => exact takes_releases (f := writeEnable w) (fun _ => .of_eq rfl rfl) ht hs
  | registerWrite addr w => exact takes_releases (releases_writeRegister addr w) ht hs
  | writeFrameDiscard => exact takes_releases (f := endFrame) (fun _ => .of_eq rfl rfl) ht hs
  | invalidCommand w => exact takes_releases (releases_invalidCommand w) ht hs
  | portReset a => exact takes_releases (releases_commandPortReset a) ht hs
  | targetReset => exact takes_releases_reported releases_commandTargetReset ht hs
  | softReset => exact takes_releases releases_commandSoftReset ht hs
  | reshape b => exact takes_releases (releases_commandReshape b) ht hs
  | logPop => exact takes_releases (f := commandLogPop) (fun _ => .of_eq rfl rfl) ht hs
  | logClear => exact takes_releases (f := commandLogClear) (fun _ => .of_eq rfl rfl) ht hs
  | tableFetch a b => exact takes_releases (releases_commandTableFetch a b) ht hs
  | tableCommit a b => exact takes_releases_reported (releases_commandTableCommit a b) ht hs
  | powerOnReset =>
    cases ht
    refine Releases.keeps ?_ hs
    split
    · exact .refl s
    · exact releases_hardReset .powerOn s
  | pinReset =>
    cases ht
    refine Releases.keeps ?_ hs
    split
    · exact .refl s
    · exact releases_hardReset .pin s
  | resetHoldBegin c => exact takes_releases (releases_beginHold c) ht hs

end Sys2Proof.Machine

namespace Sys2Proof.Proofs

open Sys2Proof.Machine

/-- Settles O9: blocks come only from the free ones at a grant and claims only to ports that have none; every other operation
only releases them. Claims of distinct ports are at most four. -/
theorem stepKeepsBufferSound : Obligations.StepKeepsBufferSound := by
  intro s t hblocks hclaims ht
  have hsound : BufferSound t := by
    unfold step at ht
    split at ht
    · cases ht
      exact ⟨hblocks, hclaims⟩
    · exact exec_keeps_bufferSound ht ⟨hblocks, hclaims⟩
  obtain ⟨hb, hc⟩ := hsound
  exact ⟨hb, hc, by simpa using hc.length_le_card⟩

end Sys2Proof.Proofs
end

section
/-! SUPPORT. A data part of a live READ (R77, R80, R81): where its bytes go, what it marks, and the state that it leaves. -/

namespace Sys2Proof.Machine

/-- Bytes stored from an offset on leave the bytes past their end. -/
theorem read_storeBytes_above {blocks : List Nat} (hb : blocks.Nodup) (data : List Byte) (m : Memory) {o p a : Nat}
    (hp : byteAddr blocks p = some a) (hle : o + data.length ≤ p) : (storeBytes blocks o data m).read a = m.read a := by
  induction data generalizing o m with
  | nil => rfl
  | cons b rest ih =>
    rw [List.length_cons] at hle
    simp only [storeBytes]
    rw [ih _ (by omega : o + 1 + rest.length ≤ p)]
    split
    · rename_i x hx
      apply Memory.read_write_ne
      rintro rfl
      have := byteAddr_inj hb hp hx
      omega
    · rfl

theorem entryOf_iff {s : State} {r : TagRec} {q : ReqRec} {y : Sub} :
    entryOf s r = some (q, y) ↔
      (s.port r.port).slot r.slot = some q ∧ ∃ c, q.cut = some c ∧ c.subs[r.sub]? = some y := by
  unfold entryOf
  cases (s.port r.port).slot r.slot with
  | none => simp
  | some w =>
    cases hc : w.cut with
    | none =>
      simp only [hc, reduceCtorEq, Option.some.injEq, false_iff]
      rintro ⟨rfl, c, hc', -⟩
      rw [hc] at hc'
      cases hc'
    | some c =>
      simp only [hc, Option.map_eq_some_iff, Prod.mk.injEq, Option.some.injEq]
      constructor
      · rintro ⟨z, hz, rfl, rfl⟩
        exact ⟨rfl, c, hc, hz⟩
      · rintro ⟨rfl, c', hc', hy⟩
        rw [hc] at hc'
        cases hc'
        exact ⟨y, hy, rfl, rfl⟩

/-- A record marked by a POISONED part from request offset `o` on, its entry `y` at index `n` written out (R80). -/
def poisonedRecord (n o : Nat) (y : Sub) (q : ReqRec) : ReqRec :=
  { q with cut := q.cut.map fun c => { c with subs := c.subs.set n { y with poisoned := true } },
           firstPoisoned := some (q.firstPoisoned.getD o) }

theorem markPoisoned_eq {q : ReqRec} {c : Cut} {n : Nat} {y : Sub} (hc : q.cut = some c) (hy : c.subs[n]? = some y)
    (o : Nat) : markPoisoned n o q = poisonedRecord n o y q := by
  have hset : (c.subs.modify n fun x => { x with poisoned := true }) = c.subs.set n { y with poisoned := true } := by
    rw [List.modify_eq_set_getElem?, hy]
    rfl
  simp [markPoisoned, poisonedRecord, hc, hset]

/-- The record after a part (R80). -/
def recordAfterPart (poisoned : Bool) (n o : Nat) (y : Sub) (q : ReqRec) : ReqRec :=
  if poisoned then poisonedRecord n o y q else q

/-- The entry after a part (R80). -/
def entryAfterPart (poisoned : Bool) (y : Sub) : Sub := if poisoned then { y with poisoned := true } else y

theorem setSlot_eq_self {p : PortState} {i : Slot} {r : ReqRec} (hr : p.slot i = some r) : p.setSlot i (some r) = p := by
  rw [← hr]
  simp [PortState.setSlot, PortState.slot]

/-- The record that a part reaches has been rewritten. -/
def partMarked (r : TagRec) (poisoned : Bool) (y : Sub) (q : ReqRec) (s : State) : State :=
  s.modPort r.port fun p => p.setSlot r.slot (some (recordAfterPart poisoned r.sub (partOffset y r) y q))

/-- A live data part stores its bytes and marks its record, and does no more (R80). -/
theorem placeData_of_entry {s : State} {r : TagRec} {q : ReqRec} {y : Sub} (he : entryOf s r = some (q, y))
    (poisoned : Bool) (data : List Byte) :
    placeData r poisoned data s =
      { partMarked r poisoned y q s with buffer := storeBytes (q.blocks.map (·.val)) (partOffset y r) data s.buffer } := by
  obtain ⟨hq, c, hc, hy⟩ := entryOf_iff.1 he
  unfold placeData
  rw [he]
  cases poisoned with
  | false =>
    have hself : partMarked r false y q s = s := modPort_eq_self _ _ _ (setSlot_eq_self hq)
    rw [hself]
    rfl
  | true =>
    dsimp only
    rw [if_pos rfl, markPoisoned_eq hc hy]
    rfl

theorem entryOf_partMarked {s : State} {r : TagRec} {q : ReqRec} {y : Sub} (he : entryOf s r = some (q, y))
    (poisoned : Bool) :
    entryOf (partMarked r poisoned y q s) r =
      some (recordAfterPart poisoned r.sub (partOffset y r) y q, entryAfterPart poisoned y) := by
  obtain ⟨hq, c, hc, hy⟩ := entryOf_iff.1 he
  rw [entryOf_iff]
  refine ⟨by rw [partMarked, port_modPort_same, slot_setSlot_same], ?_⟩
  cases poisoned with
  | false => exact ⟨c, hc, hy⟩
  | true =>
    obtain ⟨hn, -⟩ := List.getElem?_eq_some_iff.1 hy
    exact ⟨_, by rw [recordAfterPart, if_pos rfl, poisonedRecord, hc, Option.map_some], List.getElem?_set_self hn⟩

/-- The state that a live data part leaves, but for the retirement that the last one brings and the tests after it. -/
def partPlaced (x : Tag) (r : TagRec) (d : Tick) (poisoned : Bool) (data : List Byte) (y : Sub) (q : ReqRec) (s : State) :
    State :=
  ({ partMarked r poisoned y q s with
      buffer := storeBytes (q.blocks.map (·.val)) (partOffset y r) data s.buffer } : State).setTag x
    (if data.length < r.remaining then some { r with remaining := r.remaining - data.length, phase := .filling d }
     else none)

/-- The outcome of a READ's subrequest by the mark of its entry (R81). -/
theorem dataOutcome_partPlaced {s : State} {r : TagRec} {q : ReqRec} {y : Sub} (he : entryOf s r = some (q, y))
    (x : Tag) (d : Tick) (poisoned : Bool) (data : List Byte) :
    dataOutcome (partPlaced x r d poisoned data y q s) r =
      if poisoned = true ∨ y.poisoned = true then .poisoned else .ok := by
  have he' : entryOf (partPlaced x r d poisoned data y q s) r = entryOf (partMarked r poisoned y q s) r := rfl
  rw [dataOutcome, he', entryOf_partMarked he]
  cases poisoned <;> simp [entryAfterPart]

theorem livePart_of_data {s : State} {x : Tag} {r : TagRec} {q : ReqRec} {y : Sub} {st : BitVec 8} {rem : Nat}
    {data : List Byte} (d : Tick) (hfit : PartFits r st rem data) (hk : r.kind = .read) (hst : st = 0 ∨ st = 1)
    (he : entryOf s r = some (q, y)) :
    livePart x r d ⟨st, rem, data⟩ s =
      if data.length = rem then
        retireTag r (if st = 1 ∨ y.poisoned = true then .poisoned else .ok)
          (partPlaced x r d (decide (st = 1)) data y q s)
      else partPlaced x r d (decide (st = 1)) data y q s := by
  have hout := dataOutcome_partPlaced he x d (decide (st = 1)) data
  simp only [decide_eq_true_eq] at hout
  unfold livePart
  rw [checkPart_data hfit hk hst]
  dsimp only
  rw [acceptData_eq, placeData_of_entry he, ← hout]
  rfl

theorem tagRec_partPlaced_same (x : Tag) (r : TagRec) (d : Tick) (poisoned : Bool) (data : List Byte) (y : Sub) (q : ReqRec)
    (s : State) :
    (partPlaced x r d poisoned data y q s).tagRec x =
      if data.length < r.remaining then some { r with remaining := r.remaining - data.length, phase := .filling d }
      else none :=
  tagRec_setTag_same ..

/-- What the events after a part's placement leave: the retirement of the last part, the drain test and the reports. -/
structure PartLeaves (r : TagRec) (s t : State) : Prop where
  tagRec : ∀ z, t.tagRec z = s.tagRec z
  buffer : t.buffer = s.buffer
  log : t.log = s.log
  policy : t.policy = s.policy
  timebase : t.timebase = s.timebase
  others : ∀ g, g ≠ r.port → t.port g = report (s.port g)

theorem partLeaves_reportAll (r : TagRec) (s : State) : PartLeaves r s (reportAll s) :=
  ⟨fun _ => rfl, rfl, rfl, rfl, rfl, fun g _ => port_reportAll s g⟩

theorem partLeaves_retireTag (r : TagRec) (o : SubOutcome) (s : State) :
    PartLeaves r s (reportAll (drainTest (retireTag r o s))) := by
  obtain ⟨-, htag, hlog, hbuf, hothers⟩ := retireTag_partRetired r o (s := s) (s1 := s) rfl rfl
  exact ⟨htag, hbuf, hlog, by simp [retireTag], by simp [retireTag], hothers⟩

/-- The lengths of a well-formed data part (R77). -/
theorem PartFits.lengths {r : TagRec} {st : BitVec 8} {rem : Nat} {data : List Byte} (hfit : PartFits r st rem data)
    (hk : r.kind = .read) (hst : st = 0 ∨ st = 1) : rem = r.remaining ∧ data.length ≤ r.remaining := by
  obtain ⟨rfl, hrow⟩ := by simpa only [PartFits, hk, reduceCtorEq, if_false] using hfit
  refine ⟨rfl, ?_⟩
  rcases hst with rfl | rfl <;> simp_all

end Sys2Proof.Machine

namespace Sys2Proof.Proofs

open Sys2Proof.Machine

/-- Settles O52: the part leaves `partPlaced`, and the last one retires its subrequest from there. -/
theorem dataPartIsPlaced : Obligations.DataPartIsPlaced := by
  intro x r q q1 y d status rem data start u s hhold hup hr hk horph hd he hst hfit hstart hwf hblocks hbound hq1 hu
  have hexec := tcpl_next hhold hup x status rem data
  rw [takePart_of_running hr hd, horph, if_neg Bool.false_ne_true, livePart_of_data d hfit hk hst he] at hexec
  obtain ⟨hrem, hlen⟩ := hfit.lengths hk hst
  rw [hrem] at hexec
  have hmarked : partMarked r (decide (status = 1)) y q s = u := by
    rw [hu, hq1, hstart]
    rcases hst with rfl | rfl <;> rfl
  obtain ⟨t, ht, hleft, hmore, hlast⟩ : ∃ t, exec (.tcpl x status rem data) s = .next t ∧
      PartLeaves r (partPlaced x r d (decide (status = 1)) data y q s) t ∧
      (data.length < r.remaining → t = reportAll (partPlaced x r d (decide (status = 1)) data y q s)) ∧
      (data.length = r.remaining →
        EntryRetired (if status = 1 ∨ y.poisoned = true then .poisoned else .ok) r.port r.slot r.sub
          (partPlaced x r d (decide (status = 1)) data y q s) t) := by
    refine ⟨_, hexec, ?_⟩
    by_cases h : data.length = r.remaining
    · rw [if_pos h]
      exact ⟨partLeaves_retireTag .., fun hlt => absurd h hlt.ne, fun _ => (retireTag_partRetired _ _ rfl rfl).entry⟩
    · rw [if_neg h, drainTest_of_waiting (r := { r with remaining := r.remaining - data.length, phase := .filling d })
        (by rw [tagRec_partPlaced_same, if_pos (by omega)]) rfl]
      exact ⟨partLeaves_reportAll .., fun _ => rfl, fun h' => absurd h' h⟩
  obtain ⟨htag, hbuf, hlog, hpol, htime, hothers⟩ := hleft
  have hports : (partPlaced x r d (decide (status = 1)) data y q s).ports = u.ports :=
    (congrArg State.ports hmarked :)
  have hport (g : Port) : (partPlaced x r d (decide (status = 1)) data y q s).port g = u.port g := by
    simp only [State.port, hports]
  have hnd : (q.blocks.map (·.val)).Nodup := hblocks.map Fin.val_injective
  have hstored : t.buffer = storeBytes (q.blocks.map (·.val)) start data s.buffer := by
    rw [hbuf, hstart]
    rfl
  refine ⟨t, ht, fun z hz => ?tags, ?load, fun o a ho ha => ?sides, fun a ha => ?outside, hlog, hpol, htime,
    fun g hg => ?ports, fun hlt => ⟨?filling, ?port, ?frame⟩, fun heq => ⟨?free, ?retired⟩⟩
  case tags =>
    rw [htag]
    exact tagRec_setTag_ne _ _ hz
  case load =>
    rw [hstored]
    exact loadBytes_storeBytes hnd hwf start data (by simpa using hbound)
  case sides =>
    rw [hstored]
    rcases ho with ho | ho
    · exact read_storeBytes_below hnd data s.buffer ha ho
    · exact read_storeBytes_above hnd data s.buffer ha ho
  case outside =>
    rw [hstored]
    exact read_storeBytes_outside _ start data s.buffer a (by simpa using ha)
  case ports => rw [hothers g hg, hport, hu, port_modPort_ne s _ hg]
  case filling => rw [htag, tagRec_partPlaced_same, if_pos hlt]
  case port => rw [hmore hlt, port_reportAll, hport]
  case frame =>
    rw [hmore hlt]
    rfl
  case free => rw [htag, tagRec_partPlaced_same, if_neg (by omega)]
  case retired =>
    exact (hlast heq).congr hports (by rw [hu]; rfl) rfl rfl

end Sys2Proof.Proofs
end

section
/-! SUPPORT. The split (R52): the piece that is cut next, and what the list of pieces holds, by recursion on the pieces. -/

namespace Sys2Proof.Machine

/-- The piece cut at target address `a` from what is left: up to the next multiple of the size (R52). -/
def cutLength (mrs a left : Nat) : Nat := min left (mrs - a % mrs)

section

variable {mrs : Nat} (hm : 0 < mrs)

theorem splitFrom_nothing (addr fuel off : Nat) : splitFrom mrs addr fuel off 0 = [] := by
  cases fuel <;> simp [splitFrom]

theorem splitFrom_cut {left : Nat} (hl : left ≠ 0) (addr fuel off : Nat) :
    splitFrom mrs addr (fuel + 1) off left =
      (off, cutLength mrs (addr + off) left) ::
        splitFrom mrs addr fuel (off + cutLength mrs (addr + off) left) (left - cutLength mrs (addr + off) left) :=
  if_neg hl

theorem cutLength_le (a left : Nat) : cutLength mrs a left ≤ left := Nat.min_le_left ..

include hm

theorem cutLength_pos (a : Nat) {left : Nat} (hl : left ≠ 0) : 1 ≤ cutLength mrs a left := by
  have := Nat.mod_lt a hm
  unfold cutLength
  omega

theorem cutLength_fits (a left : Nat) : a % mrs + cutLength mrs a left ≤ mrs := by
  have := Nat.mod_lt a hm
  unfold cutLength
  omega

/-- A piece that leaves something ends on a multiple of the size. -/
theorem aligned_of_cutLength_lt {a left : Nat} (h : cutLength mrs a left < left) :
    (a + cutLength mrs a left) % mrs = 0 := by
  have hlt := Nat.mod_lt a hm
  have hcut : cutLength mrs a left = mrs - a % mrs := by
    unfold cutLength at h ⊢
    omega
  rw [hcut, ← Nat.mod_add_mod, Nat.add_sub_cancel' hlt.le, Nat.mod_self]

omit hm in
/-- A piece that starts on a multiple of the size and leaves something has the whole size. -/
theorem cutLength_of_aligned {a left : Nat} (ha : a % mrs = 0) (h : cutLength mrs a left < left) :
    cutLength mrs a left = mrs := by
  unfold cutLength at h ⊢
  omega

/-- A piece crosses no multiple of the size. -/
theorem div_cutLength (a : Nat) {left : Nat} (hl : left ≠ 0) :
    a / mrs = (a + cutLength mrs a left - 1) / mrs := by
  have h1 := cutLength_pos hm a hl
  have h2 := cutLength_fits hm a left
  have hlt : cutLength mrs a left - 1 < mrs := by omega
  rw [Nat.add_sub_assoc h1, Nat.add_div_eq_of_add_mod_lt (by rw [Nat.mod_eq_of_lt hlt]; omega), Nat.div_eq_of_lt hlt,
    Nat.add_zero]

variable (addr : Nat)

theorem sum_splitFrom {fuel off left : Nat} (h : left ≤ fuel) :
    ((splitFrom mrs addr fuel off left).map Prod.snd).sum = left := by
  induction fuel generalizing off left with
  | zero => simp [splitFrom, Nat.le_zero.1 h]
  | succ fuel ih =>
    by_cases hl : left = 0
    · simp [hl, splitFrom_nothing]
    · have hpos := cutLength_pos hm (addr + off) hl
      have hle := cutLength_le (mrs := mrs) (addr + off) left
      rw [splitFrom_cut hl, List.map_cons, List.sum_cons, ih (by omega)]
      exact Nat.add_sub_cancel' hle

/-- Each piece starts where those before it end, is not empty, and crosses no multiple of the size. -/
theorem getElem?_splitFrom {fuel off left n : Nat} {x : Nat × Nat} (hx : (splitFrom mrs addr fuel off left)[n]? = some x) :
    x.1 = off + (((splitFrom mrs addr fuel off left).take n).map Prod.snd).sum ∧ 1 ≤ x.2 ∧
      (addr + x.1) / mrs = (addr + x.1 + x.2 - 1) / mrs := by
  induction fuel generalizing off left n with
  | zero => simp [splitFrom] at hx
  | succ fuel ih =>
    by_cases hl : left = 0
    · simp [hl, splitFrom_nothing] at hx
    · rw [splitFrom_cut hl] at hx ⊢
      cases n with
      | zero =>
        obtain rfl := Option.some.inj hx
        exact ⟨by simp, cutLength_pos hm _ hl, div_cutLength hm _ hl⟩
      | succ n =>
        obtain ⟨hoff, hrest⟩ := ih hx
        refine ⟨?_, hrest⟩
        rw [hoff, List.take_succ_cons, List.map_cons, List.sum_cons, Nat.add_assoc]

/-- From a multiple of the size on, every piece but the last has the whole size. -/
theorem full_of_aligned {fuel off left n : Nat} {x : Nat × Nat} (ha : (addr + off) % mrs = 0)
    (hx : (splitFrom mrs addr fuel off left)[n]? = some x)
    (hlast : n + 1 < (splitFrom mrs addr fuel off left).length) : x.2 = mrs := by
  induction fuel generalizing off left n with
  | zero => simp [splitFrom] at hx
  | succ fuel ih =>
    by_cases hl : left = 0
    · simp [hl, splitFrom_nothing] at hx
    · rw [splitFrom_cut hl] at hx hlast
      have hmore : cutLength mrs (addr + off) left < left := by
        by_contra hge
        rw [Nat.sub_eq_zero_of_le (Nat.le_of_not_lt hge), splitFrom_nothing] at hlast
        simp at hlast
      cases n with
      | zero =>
        obtain rfl := Option.some.inj hx
        exact cutLength_of_aligned ha hmore
      | succ n =>
        refine ih ?_ hx (by simpa using hlast)
        rw [← Nat.add_assoc]
        exact aligned_of_cutLength_lt hm hmore

/-- From a multiple of the size on, there are no more pieces than whole sizes cover what is left. -/
theorem length_of_aligned {fuel off left : Nat} (ha : (addr + off) % mrs = 0) :
    (splitFrom mrs addr fuel off left).length * mrs < left + mrs := by
  induction fuel generalizing off left with
  | zero => simp [splitFrom]; omega
  | succ fuel ih =>
    by_cases hl : left = 0
    · simpa [hl, splitFrom_nothing] using hm
    · rw [splitFrom_cut hl, List.length_cons, Nat.succ_mul]
      by_cases hmore : cutLength mrs (addr + off) left < left
      · have := ih (off := off + cutLength mrs (addr + off) left) (left := left - cutLength mrs (addr + off) left)
          (by rw [← Nat.add_assoc]; exact aligned_of_cutLength_lt hm hmore)
        have := cutLength_of_aligned ha hmore
        omega
      · rw [Nat.sub_eq_zero_of_le (Nat.le_of_not_lt hmore), splitFrom_nothing, List.length_nil]
        omega

/-- A split of something is its first piece and the pieces from there on; where there are more, the first ends on a multiple
of the size. -/
theorem split_first {len : Nat} (hl : len ≠ 0) :
    ∃ fuel n left, 1 ≤ n ∧ n + left = len ∧ (left = 0 ∨ (addr + n) % mrs = 0) ∧
      split mrs addr len = (0, n) :: splitFrom mrs addr fuel n left := by
  obtain ⟨fuel, rfl⟩ := Nat.exists_eq_succ_of_ne_zero hl
  have hle := cutLength_le (mrs := mrs) addr (fuel + 1)
  refine ⟨fuel, cutLength mrs addr (fuel + 1), _, cutLength_pos hm _ hl, Nat.add_sub_cancel' hle, ?_, ?_⟩
  · by_cases hmore : cutLength mrs addr (fuel + 1) < fuel + 1
    · exact .inr (aligned_of_cutLength_lt hm hmore)
    · exact .inl (by omega)
  · simpa [split] using splitFrom_cut (mrs := mrs) hl addr fuel 0

/-- Only the first piece of a split and the last can be shorter than the size. -/
theorem split_full {len n : Nat} {x : Nat × Nat} (hx : (split mrs addr len)[n]? = some x) (h0 : 0 < n)
    (hlast : n + 1 < (split mrs addr len).length) : x.2 = mrs := by
  by_cases hl : len = 0
  · simp [hl, split, splitFrom] at hx
  · obtain ⟨fuel, k, left, -, -, hend, he⟩ := split_first hm addr hl
    obtain ⟨n, rfl⟩ := Nat.exists_eq_succ_of_ne_zero h0.ne'
    rw [he] at hx hlast
    rcases hend with rfl | ha
    · simp [splitFrom_nothing] at hx
    · exact full_of_aligned hm addr ha hx (by simpa using hlast)

omit hm in
/-- A request of at most 512 bytes has at most nine pieces of 64 bytes or more: a first one, and eight from a multiple on. -/
theorem length_split (hmin : 64 ≤ mrs) {len : Nat} (hlen : len ≤ 512) : (split mrs addr len).length ≤ 9 := by
  have hm : 0 < mrs := by omega
  by_cases hl : len = 0
  · simp [hl, split, splitFrom]
  · obtain ⟨fuel, n, left, hn, hsum, hend, he⟩ := split_first hm addr hl
    rw [he, List.length_cons]
    rcases hend with rfl | ha
    · simp [splitFrom_nothing]
    · have hcover := length_of_aligned hm addr (fuel := fuel) (left := left) ha
      by_contra hmany
      have := Nat.mul_le_mul_right mrs (by omega : 9 ≤ (splitFrom mrs addr fuel n left).length)
      omega

end

theorem Mrs.bytes_ge (m : Mrs) : 64 ≤ m.bytes := by
  cases m <;> decide

end Sys2Proof.Machine

namespace Sys2Proof.Proofs

open Sys2Proof.Machine

/-- Settles O54: by recursion on the pieces; the bound by counting the pieces from the first multiple of the size on. -/
theorem splitCoversTheRequest : Obligations.SplitCoversTheRequest := by
  intro mrs addr len
  have hm : 0 < mrs.bytes := Nat.lt_of_lt_of_le (by decide) mrs.bytes_ge
  refine ⟨sum_splitFrom hm addr le_rfl, fun n x hx => ?_, length_split addr mrs.bytes_ge⟩
  obtain ⟨hoff, hpos, hcross⟩ := getElem?_splitFrom hm addr hx
  rw [Nat.zero_add] at hoff
  exact ⟨hoff, hpos, hcross, split_full hm addr hx⟩

end Sys2Proof.Proofs
end

section
/-! SUPPORT. The counts of the Response Buffer (R54), and the registers that read them (R74). -/

namespace Sys2Proof.Machine

theorem length_reservedBlocks (s : State) :
    (reservedBlocks s).length = (allPorts.map fun h => (s.port h).reserved).sum :=
  List.length_flatMap ..

/-- While no block is reserved twice, each of the 256 is free or reserved. -/
theorem length_freeBlocks {s : State} (hs : BlocksReservedOnce s) :
    (freeBlocks s).length + (reservedBlocks s).length = 256 := by
  have hperm : (freeBlocks s ++ reservedBlocks s).Perm allBlocks := by
    refine (List.perm_ext_iff_of_nodup ?_ (List.nodup_finRange 256)).2 fun b => ?_
    · exact (freeBlocks_nodup s).append hs fun b hb => mem_freeBlocks.1 hb
    · simp only [List.mem_append, mem_freeBlocks, List.mem_finRange, iff_true]
      exact (Classical.em _).symm
  simpa using hperm.length_eq

theorem readWord_freeBlocks (s : State) : readWord s 0x012 = wordOf [(freeBlocks s).length] := rfl

theorem readWord_reserved (s : State) :
    readWord s 0x013 = wordOf [place 0 (s.port 0).reserved, place 16 (s.port 1).reserved] ∧
      readWord s 0x014 = wordOf [place 0 (s.port 2).reserved, place 16 (s.port 3).reserved] :=
  ⟨rfl, rfl⟩

/-- Two counts of at most 256 in one word. -/
theorem field_pair {a b : Nat} (ha : a ≤ 256) (hb : b ≤ 256) :
    field (wordOf [place 0 a, place 16 b]) 0 9 = a ∧ field (wordOf [place 0 a, place 16 b]) 16 9 = b := by
  simp only [field_wordOf, place, List.sum_cons, List.sum_nil]
  omega

end Sys2Proof.Machine

namespace Sys2Proof.Proofs

open Sys2Proof.Machine

/-- Settles O57: each block is free or reserved, and each count fits its field. -/
theorem blockCountRegisters : Obligations.BlockCountRegisters := by
  intro s hs
  have hsum := length_freeBlocks hs
  rw [length_reservedBlocks] at hsum
  refine ⟨hsum, ?_⟩
  rw [sum_allPorts] at hsum
  obtain ⟨h13, h14⟩ := readWord_reserved s
  obtain ⟨h0, h1⟩ := field_pair (a := (s.port 0).reserved) (b := (s.port 1).reserved) (by omega) (by omega)
  obtain ⟨h2, h3⟩ := field_pair (a := (s.port 2).reserved) (b := (s.port 3).reserved) (by omega) (by omega)
  rw [h13, h14]
  refine ⟨?_, h0, h1, h2, h3⟩
  rw [readWord_freeBlocks, field_wordOf, List.sum_singleton]
  omega

end Sys2Proof.Proofs
end

section
/-! SUPPORT. The reshape (R66, R68, R69). -/

namespace Sys2Proof.Machine

theorem Mrs.ofBytes_bytes (m : Mrs) : Mrs.ofBytes m.bytes = some m := by
  cases m <;> decide

/-- The drain test reads the ports and the tags alone. -/
theorem drainClear_congr {s t : State} (hports : t.ports = s.ports) (htags : t.tags = s.tags) :
    drainClear t = drainClear s := by
  simp only [drainClear, State.port, hports, htags]

theorem drainTest_of_clear {s : State} {m : Mrs} {start : Tick} {limit : Nat}
    (hd : s.arb.reshape = .draining m start limit) (hc : drainClear s = true) : drainTest s = completeDrain m s := by
  simp [drainTest, hd, hc]

theorem drainTest_of_not_clear {s : State} (hc : drainClear s = false) : drainTest s = s := by
  unfold drainTest
  split
  · rfl
  · rw [hc]
    rfl

/-- A drain in progress before it is first tested (R66). -/
def drainStarted (size : Mrs) (s : State) : State :=
  { s with arb := { s.arb with reshape := .draining size s.timebase s.policy.global.reshapeLimit,
                               dataHold := if holdsForFirst s then none else s.arb.dataHold } }

theorem startDrain_eq (size : Mrs) (s : State) : startDrain size s = drainTest (drainStarted size s) := rfl

theorem drainClear_drainStarted (size : Mrs) (s : State) : drainClear (drainStarted size s) = drainClear s :=
  drainClear_congr rfl rfl

/-- What a drain that ends at its limit leaves, but for the log and the event (R69). -/
theorem takeDrainLimit_of_reached {s : State} {m : Mrs} {start : Tick} {limit : Nat}
    (hd : s.arb.reshape = .draining m start limit) (hr : limit ≤ (s.timebase - start).toNat) :
    takeDrainLimit s = raiseEvent eventReshapeEnd (appendLog { kind := .reshapeAborted, detail := some m.bytes }
      { s with arb := { s.arb with outcome := .aborted, reshape := .idle } }) := by
  simp only [takeDrainLimit, hd, drainLimitReached, hr, decide_true, if_true]

theorem takeDrainLimit_of_not_reached {s : State} {m : Mrs} {start : Tick} {limit : Nat}
    (hd : s.arb.reshape = .draining m start limit) (hr : (s.timebase - start).toNat < limit) : takeDrainLimit s = s := by
  simp only [takeDrainLimit, hd, drainLimitReached, Nat.not_le.2 hr, decide_false, Bool.false_eq_true, if_false]

theorem commandReshape_of_draining {b : BitVec 16} {m x : Mrs} {y : Tick} {z : Nat} {s : State} (hb : b.toNat = m.bytes)
    (hd : s.arb.reshape = .draining x y z) : commandReshape b s = setResult Command.reshape.code .busy s := by
  simp only [commandReshape, hb, Mrs.ofBytes_bytes, hd]

theorem commandReshape_of_idle {b : BitVec 16} {m : Mrs} {s : State} (hb : b.toNat = m.bytes)
    (hi : s.arb.reshape = .idle) :
    commandReshape b s = setResult Command.reshape.code .done (drainTest (drainStarted m s)) := by
  simp only [commandReshape, hb, Mrs.ofBytes_bytes, hi, startDrain_eq]

end Sys2Proof.Machine

namespace Sys2Proof.Proofs

open Sys2Proof.Machine

/-- Settles O26: by the reshape state, and for a drain that starts by its first test. -/
theorem reshapeStartsADrain : Obligations.ReshapeStartsADrain := by
  intro b m s hhold hb
  have hexec : exec (.reshape b) s = .next (commandReshape b s) := takes_next hhold _
  refine ⟨fun x y z hd => ?busy, fun hi hc => ?starts, fun hi hc => ?completes⟩
  case busy =>
    rw [hexec, commandReshape_of_draining hb hd]
    rfl
  case starts =>
    rw [hexec, commandReshape_of_idle hb hi, drainTest_of_not_clear ((drainClear_drainStarted m s).trans hc)]
    rfl
  case completes =>
    rw [hexec, commandReshape_of_idle hb hi, drainTest_of_clear rfl ((drainClear_drainStarted m s).trans hc)]
    simp only [hi]
    rfl

/-- Settles O30: the limit by whether it is reached, the test by whether the drain is clear. -/
theorem drainEnds : Obligations.DrainEnds := by
  intro s m start limit hhold hd
  have hlimit : exec .drainLimitExpiry s = .next (takeDrainLimit s) := takes_next hhold _
  have htest : exec .drainComplete s = .next (drainTest s) := takes_next hhold _
  refine ⟨fun hr => ⟨_, hlimit, ?aborted⟩, fun hr => ?stands, fun hc => ?done, fun hc => ?waits⟩
  case aborted =>
    rw [takeDrainLimit_of_reached hd hr]
    refine ⟨by simp, lastLogged_of_log (a := { s with arb := { s.arb with outcome := .aborted, reshape := .idle } }) _ rfl
      rfl, ?_, ?_⟩
    · rw [getLsbD_occ_raiseEvent _ _ _ (by decide), decide_eq_true rfl, Bool.or_true]
    · have hframe := appendLog_frame { kind := .reshapeAborted, detail := some m.bytes }
        { s with arb := { s.arb with outcome := .aborted, reshape := .idle } }
      exact (congrArg (fun a : State => { a with arb := s.arb, log := s.log, events := s.events }) hframe :)
  case stands => rw [hlimit, takeDrainLimit_of_not_reached hd hr]
  case done =>
    rw [htest, drainTest_of_clear hd hc]
    rfl
  case waits => rw [htest, drainTest_of_not_clear hc]

end Sys2Proof.Proofs
end

section
/-! SUPPORT. The phases of an evaluation (R51, R57, R63): the conditions of each over plain fields, and what it leaves. -/

namespace Sys2Proof.Machine

/-! The conditions -/

theorem overCeiling_iff {s : State} {h : Port} {i : Slot} :
    overCeiling s h = some i ↔ (s.port h).firstInOrder = some i ∧
      ∃ r, (s.port h).slot i = some r ∧ r.kind = .read ∧ r.stage = .queued ∧
        (s.portPolicy h).blockCeiling < (r.length + 63) / 64 := by
  unfold overCeiling
  cases (s.port h).firstInOrder with
  | none => simp
  | some j =>
    cases hr : (s.port h).slot j with
    | none =>
      simp only [hr, reduceCtorEq, Option.some.injEq, false_iff]
      rintro ⟨rfl, r, hr', -⟩
      rw [hr] at hr'
      cases hr'
    | some r =>
      simp only [hr, Option.ite_none_right_eq_some, Option.some.injEq]
      constructor
      · rintro ⟨hc, rfl⟩
        exact ⟨rfl, r, hr, hc⟩
      · rintro ⟨rfl, r', hr', hc⟩
        rw [hr] at hr'
        cases hr'
        exact ⟨hc, rfl⟩

/-- Which READ is over its ceiling is read from its port and its policy. -/
theorem overCeiling_congr {s t : State} {h : Port} (hp : t.port h = s.port h) (hpol : t.policy = s.policy) :
    overCeiling t h = overCeiling s h := by
  simp only [overCeiling, hp, portPolicy_congr hpol]

theorem claimDue_iff {s : State} {h : Port} {n : Nat} :
    claimDue s h = some n ↔ ∃ x, HeadIs s h x ∧ x.first = true ∧ x.record.kind = .read ∧
      n = (x.record.length + 63) / 64 ∧ (∀ c ∈ s.arb.claims, c.1 ≠ h) ∧ s.arb.reshape = .idle ∧
      (s.port h).reserved + n ≤ (s.portPolicy h).blockCeiling ∧ (freeBlocks s).length < n := by
  simp only [claimDue_eq_some, issueHead_eq_some, Head.reserves_iff, ReqRec.blockNeed, ceilBlocks, and_assoc]

theorem portWaitsOnData_iff {s : State} {h : Port} :
    portWaitsOnData s h = true ↔ ∃ x, HeadIs s h x ∧ MayGoButData s h x ∧ ShortOfData s x := by
  simp only [← issueHead_eq_some, ← eligibleButData_iff]
  unfold portWaitsOnData
  cases issueHead s h with
  | none => simp
  | some x =>
    have hshort : ShortOfData s x ↔ dataPresent s x = false := by
      rw [Bool.eq_false_iff, Ne, dataPresent_iff, not_not]
    simp [hshort]

/-! The moves of R51 -/

/-- A move of R51 leaves the other records of every port in place, as far as they are no FENCE. -/
theorem portKept_ceilingStep (g h : Port) (s : State) : PortKept (s.port h) ((ceilingStep g s).port h) := by
  unfold ceilingStep
  split
  · exact .refl _
  · rename_i i hi
    obtain ⟨r, hr, hs⟩ := overCeiling_eq_some hi
    show PortKept (s.port h) ((s.modPort g fun p => fenceTest (enterReady i .badRequest p)).port h)
    rw [port_modPort]
    split
    · subst h
      exact (portKept_enterReady hr hs _).trans (portKept_fenceTest _)
    · exact .refl _

/-- A READ of port `h` in slot `i` answered BAD_REQUEST, no claim of its port left (R51). -/
structure CeilingAnswered (h : Port) (i : Slot) (s : State) : Prop where
  answered : ∃ r, (s.port h).slot i = some r ∧ r.kind = .read ∧ r.stage = .ready ∧ r.status = some .badRequest
  queued : i ∈ (s.port h).respQ
  claims : ∀ c ∈ s.arb.claims, c.1 ≠ h

theorem CeilingAnswered.step {h : Port} {i : Slot} {s : State} (ha : CeilingAnswered h i s) (g : Port) :
    CeilingAnswered h i (ceilingStep g s) := by
  obtain ⟨⟨r, hr, hk, hs, hst⟩, hq, hc⟩ := ha
  have hkept := portKept_ceilingStep g h s
  exact ⟨⟨r, hkept.slots i r hr (by simp [hk]) (by simp [hs]), hk, hs, hst⟩, hkept.respQ hq,
    fun c hc' => hc c ((releases_ceilingStep g s).claims.subset hc')⟩

theorem port_with_arb (s : State) (a : Arbiter) (h : Port) : { s with arb := a }.port h = s.port h := rfl

theorem ceilingStep_of_over {h : Port} {i : Slot} {s : State} (hi : overCeiling s h = some i) :
    ceilingStep h s =
      { s.modPort h fun p => fenceTest (enterReady i .badRequest p) with arb := dropClaim h s.arb } := by
  simp only [ceilingStep, hi, modPort_arb]

/-- One move of R51 answers the READ over its ceiling. -/
theorem ceilingStep_answers {h : Port} {i : Slot} {s : State} (hi : overCeiling s h = some i) :
    CeilingAnswered h i (ceilingStep h s) := by
  obtain ⟨-, r, hr, hk, -, -⟩ := overCeiling_iff.1 hi
  have hport : (ceilingStep h s).port h = fenceTest (enterReady i .badRequest (s.port h)) := by
    rw [ceilingStep_of_over hi, port_with_arb, port_modPort_same]
  have hclaims : (ceilingStep h s).arb.claims = s.arb.claims.filter fun c => c.1 != h := by
    rw [ceilingStep_of_over hi, dropClaim]
  obtain ⟨hslot, hq⟩ := fenceTest_keeps (enterReady i .badRequest (s.port h))
  rw [enterReady_of_some hr] at hport hslot hq
  refine ⟨⟨{ r with stage := .ready, status := some .badRequest, staging := [] }, ?_, hk, rfl, rfl⟩, ?_, fun c hc => ?_⟩
  · rw [hport]
    exact hslot i _ (slot_setSlot_same ..) (by simp [hk])
  · rw [hport]
    exact hq.subset (by simp)
  · rw [hclaims] at hc
    simpa using (List.mem_filter.1 hc).2

theorem ceilingStep_port_ne {g h : Port} (hg : g ≠ h) (s : State) : (ceilingStep g s).port h = s.port h := by
  cases hi : overCeiling s g with
  | none => simp only [ceilingStep, hi]
  | some i => rw [ceilingStep_of_over hi, port_with_arb, port_modPort_ne s _ hg.symm]

/-- The moves of R51 at an evaluation answer each READ that heads its port over the ceiling. -/
theorem ceilingRetires_answers {h : Port} {i : Slot} {s : State} (hi : overCeiling s h = some i) :
    CeilingAnswered h i (ceilingRetires s) := by
  unfold ceilingRetires
  refine foldl_visits (P := fun a : State => a.port h = s.port h ∧ a.policy = s.policy) (Q := CeilingAnswered h i)
    (List.nodup_finRange 4) (List.mem_finRange h) (fun a g hg ha => ?before) (fun a ha => ?turn) (fun a g _ ha => ?after) ⟨rfl, rfl⟩
  case before =>
    exact repeated_keeps (P := fun b : State => b.port h = s.port h ∧ b.policy = s.policy)
      (fun b hb => ⟨(ceilingStep_port_ne hg b).trans hb.1, (evaluated_ceilingStep g b).policy.trans hb.2⟩) 16 ha
  case turn =>
    have hfirst := ceilingStep_answers ((overCeiling_congr ha.1 ha.2).trans hi)
    rw [show 16 = 15 + 1 from rfl, repeated]
    exact repeated_keeps (P := CeilingAnswered h i) (fun b hb => hb.step h) 15 hfirst
  case after => exact repeated_keeps (P := CeilingAnswered h i) (fun b hb => hb.step g) 16 ha

theorem ceilingRetires_of_none {s : State} (hn : ∀ h, overCeiling s h = none) : ceilingRetires s = s :=
  foldl_of_fixed allPorts fun h _ => repeated_of_fixed (by simp [ceilingStep, hn h]) 16

/-! The claims (R57) -/

theorem roundRobin_eq (p : Port) : roundRobin p = ([0, 1, 2, 3] : List Port).map (p + ·) := by
  simp [roundRobin]

theorem enterClaims_claims (s : State) :
    (enterClaims s).arb.claims = s.arb.claims ++ ([0, 1, 2, 3] : List Port).filterMap
      fun k => (claimDue s (s.arb.pointer + k)).map fun n => (s.arb.pointer + k, n) := by
  simp only [enterClaims, roundRobin_eq, List.filterMap_map]
  rfl

theorem enterClaims_frame {s : State} {claims : List (Port × Nat)} (hc : (enterClaims s).arb.claims = claims) :
    enterClaims s = { s with arb := { s.arb with claims := claims } } := by
  rw [← hc, enterClaims]

/-- A change of the arbiter and the report of every port leave the rest of the state. -/
theorem reportAll_with_arb_frame (s : State) (a : Arbiter) :
    { reportAll { s with arb := a } with arb := s.arb, ports := s.ports } = s := rfl

/-! The hold (R63) -/

/-- Only a READ's head reads the claims, and it needs no data credit. -/
theorem portWaitsOnData_enterClaims (s : State) (h : Port) : portWaitsOnData (enterClaims s) h = portWaitsOnData s h := by
  rw [Bool.eq_iff_iff, portWaitsOnData_iff, portWaitsOnData_iff]
  refine exists_congr fun x => and_congr Iff.rfl (and_congr_left fun hshort => ?_)
  have hread : x.record.kind ≠ .read := hshort.1
  unfold MayGoButData
  simp only [hread, false_implies, implies_true]
  exact Iff.rfl

theorem settleHold_frame (s : State) : ∃ w, settleHold s = { s with arb := { s.arb with dataHold := w } } := by
  unfold settleHold
  split
  · exact ⟨_, rfl⟩
  · rename_i w _
    exact ⟨some w, rfl⟩

/-- A hold that stands is left. -/
theorem settleHold_of_held {s : State} (hd : s.arb.dataHold ≠ none) : settleHold s = s := by
  have hdue : holdDue s = none := by simp [holdDue, Option.isSome_iff_ne_none, hd]
  simp [settleHold, hdue]

theorem settleHold_dataHold {s : State} (hd : s.arb.dataHold = none) : (settleHold s).arb.dataHold = holdDue s := by
  unfold settleHold
  split
  · rename_i hdue
    rw [hd, hdue]
  · rename_i x hdue
    rw [hdue]

/-- The retry head waits only on data credits: a WRITE with a header credit (R62). -/
def RetryWaitsOnData (s : State) (r : TagRec) : Prop :=
  r.kind = .write ∧ 1 ≤ s.target.heldHdr ∧ s.target.heldData < (r.length + 63) / 64

theorem retryWaitsOnData_iff {s : State} {x : Tag} {r : TagRec} (hd : s.arb.dataHold = none) :
    (retryButData s x r && !decide (r.dataNeed ≤ s.target.heldData)) = true ↔ RetryWaitsOnData s r := by
  rw [Bool.and_eq_true, retryButData_iff, TagRec.dataNeed_eq, RetryWaitsOnData]
  cases r.kind <;> simp [hd]

/-- The retry head that waits only on data credits becomes the holder. -/
theorem holdDue_of_retry {s : State} {x : Tag} {r : TagRec} {d : Tick} (hd : s.arb.dataHold = none)
    (hr : retryHead s = some (x, r, d)) (hw : RetryWaitsOnData s r) : holdDue s = some (.tag x) := by
  unfold holdDue
  rw [hd, hr]
  exact if_pos ((retryWaitsOnData_iff hd).2 hw)

/-- Else the pointer port becomes the holder where its head waits only on data credits. -/
theorem holdDue_of_port {s : State} (hd : s.arb.dataHold = none)
    (hr : ∀ x r d, retryHead s = some (x, r, d) → ¬ RetryWaitsOnData s r) :
    holdDue s = if portWaitsOnData s s.arb.pointer = true then some (.port s.arb.pointer) else none := by
  unfold holdDue
  rw [hd]
  cases hh : retryHead s with
  | none => rfl
  | some y =>
    obtain ⟨x, r, d⟩ := y
    exact if_neg fun hc => hr x r d hh ((retryWaitsOnData_iff hd).1 hc)

end Sys2Proof.Machine

namespace Sys2Proof.Proofs

open Sys2Proof.Machine

/-- Settles O60: each phase by what it leaves; where no READ is over its ceiling, the claims are entered and the hold settled
from the state as it stands. -/
theorem evaluationSettlesClaimsAndHold : Obligations.EvaluationSettlesClaimsAndHold := by
  refine ⟨fun s claims hhold hup htx => ⟨fun h i hi => ?ceiling, fun hn hclaims => ⟨?claims, ?hold⟩⟩,
    fun s h => ⟨fun i => overCeiling_iff, fun n => claimDue_iff, portWaitsOnData_iff⟩⟩
  case ceiling =>
    have hexec : exec .readCeilingRetire s = .next (reportAll (ceilingRetires s)) := by
      refine (takes_next hhold fun s => reportAll (atOpportunity ceilingRetires s)).trans ?_
      rw [atOpportunity_of_open hup htx]
    obtain ⟨⟨r, hr, -, hs, hst⟩, hq, hc⟩ := ceilingRetires_answers hi
    exact ⟨_, r, hexec, by rw [port_reportAll, report_slot, hr], hs, hst,
      by rw [port_reportAll, report_respQ]; exact hq, by rw [reportAll_arb]; exact hc⟩
  case claims =>
    have hexec : exec .claimEntry s = .next (reportAll (enterClaims s)) := by
      refine (takes_next hhold fun s => reportAll (atOpportunity (fun s => enterClaims (ceilingRetires s)) s)).trans ?_
      rw [atOpportunity_of_open hup htx, ceilingRetires_of_none hn]
    rw [enterClaims_frame (hclaims ▸ enterClaims_claims s)] at hexec
    exact ⟨_, hexec, reportAll_arb _, fun g => port_reportAll .., reportAll_with_arb_frame ..⟩
  case hold =>
    have hexec : exec .dataCreditHold s = .next (reportAll (settleHold (enterClaims s))) := by
      refine (takes_next hhold fun s => reportAll (atOpportunity evaluate s)).trans ?_
      rw [atOpportunity_of_open hup htx, evaluate, ceilingRetires_of_none hn]
    have hentered := enterClaims_frame (hclaims ▸ enterClaims_claims s)
    obtain ⟨w, hw⟩ := settleHold_frame (enterClaims s)
    have hdataHold : w = (settleHold (enterClaims s)).arb.dataHold := by rw [hw]
    have hsettled : settleHold (enterClaims s) = { s with arb := { s.arb with claims := claims, dataHold := w } } := by
      rw [hw, hentered]
    rw [hsettled] at hexec
    refine ⟨_, hexec, reportAll_arb _, fun g => port_reportAll .., reportAll_with_arb_frame .., fun hd => ?stands,
      fun hd => ⟨?retry, ?pointer⟩⟩
    case stands =>
      have hleft := congrArg (fun a : State => a.arb.dataHold) (settleHold_of_held (s := enterClaims s) hd)
      exact hdataHold.trans hleft
    case retry =>
      intro x r d e hx hr hp hk hhdr hdata
      have hdue := holdDue_of_retry (s := enterClaims s) hd (retryHead_eq_some.2 ⟨hx, hr, e, hp⟩) ⟨hk, hhdr, hdata⟩
      exact hdataHold.trans ((settleHold_dataHold (s := enterClaims s) hd).trans hdue)
    case pointer =>
      intro hno
      rw [← portWaitsOnData_enterClaims]
      refine hdataHold.trans ((settleHold_dataHold (s := enterClaims s) hd).trans
        (holdDue_of_port (s := enterClaims s) hd fun x r d hr hw => ?_))
      obtain ⟨hx, hr, e, hp⟩ := retryHead_eq_some.1 hr
      obtain ⟨hk, hhdr, hdata⟩ : r.kind = .write ∧ 1 ≤ s.target.heldHdr ∧ s.target.heldData < (r.length + 63) / 64 := hw
      rcases hno x r d e hx hr hp with h | h | h
      · rw [hk] at h
        cases h
      · omega
      · omega

end Sys2Proof.Proofs
end

/-! Proofs about time and the state that has one writer (05): what every command leaves of the timebase, the policy, the
events and the reset cause, and the tick. -/

section
/-! SUPPORT. The state that has one writer: the timebase (R97), the policy (R184), the enable set and the occurrences
(R171, R173) and the reset cause (R190); every operation but the writer's own leaves it. -/

namespace Sys2Proof.Machine

/-! What has one writer -/

/-- The parts of the state that have one writer. -/
def State.globals (s : State) : Tick × Policy × Events × ResetCause :=
  (s.timebase, s.policy, s.events, s.mgmt.resetCause)

/-- From `s` to `t` none of them is written, but that occurrences may become pending. -/
structure GlobalsKept (s t : State) : Prop where
  timebase : t.timebase = s.timebase
  policy : t.policy = s.policy
  enable : t.events.enable = s.events.enable
  occ : ∀ i : Nat, s.events.occ.getLsbD i = true → t.events.occ.getLsbD i = true
  resetCause : t.mgmt.resetCause = s.mgmt.resetCause

theorem GlobalsKept.refl (s : State) : GlobalsKept s s := ⟨rfl, rfl, rfl, fun _ h => h, rfl⟩

theorem GlobalsKept.trans {s t u : State} (h1 : GlobalsKept s t) (h2 : GlobalsKept t u) : GlobalsKept s u :=
  ⟨h2.timebase.trans h1.timebase, h2.policy.trans h1.policy, h2.enable.trans h1.enable,
    fun i h => h2.occ i (h1.occ i h), h2.resetCause.trans h1.resetCause⟩

theorem GlobalsKept.of_globals {s t : State} (h : t.globals = s.globals) : GlobalsKept s t := by
  simp only [State.globals, Prod.mk.injEq] at h
  obtain ⟨htime, hpolicy, hevents, hcause⟩ := h
  exact ⟨htime, hpolicy, by rw [hevents], fun i hi => by rwa [hevents], hcause⟩

theorem globalsKept_foldl {α : Type} {f : State → α → State} (hf : ∀ s a, GlobalsKept s (f s a)) (l : List α)
    (s : State) : GlobalsKept s (l.foldl f s) :=
  foldl_keeps (P := GlobalsKept s) (fun a b h => h.trans (hf a b)) l (.refl s)

/-! The shared operations -/

theorem globalsKept_modPort (s : State) (h : Port) (f : PortState → PortState) : GlobalsKept s (s.modPort h f) :=
  .of_globals rfl

theorem globalsKept_modPorts (s : State) (f : PortState → PortState) : GlobalsKept s (s.modPorts f) := .of_globals rfl

theorem globalsKept_reportAll (s : State) : GlobalsKept s (reportAll s) := .of_globals rfl

theorem globalsKept_modTarget (s : State) (f : TargetLane → TargetLane) : GlobalsKept s (s.modTarget f) :=
  .of_globals rfl

theorem globalsKept_setResult (c : BitVec 8) (r : CmdResult) (s : State) : GlobalsKept s (setResult c r s) :=
  .of_globals rfl

theorem globalsKept_setTag (s : State) (t : Tag) (r : Option TagRec) : GlobalsKept s (s.setTag t r) := .of_globals rfl

/-- A raised occurrence takes none away (R171). -/
theorem globalsKept_raiseEvent (e : Nat) (s : State) : GlobalsKept s (raiseEvent e s) :=
  ⟨rfl, rfl, rfl, fun i hi => by simp [raiseEvent, hi], rfl⟩

theorem globalsKept_appendLog (e : LogEntry) (s : State) : GlobalsKept s (appendLog e s) :=
  ⟨appendLog_timebase e s, appendLog_policy e s, appendLog_enable e s, fun _ => getLsbD_occ_appendLog e s,
    congrArg Mgmt.resetCause (appendLog_mgmt e s)⟩

theorem globalsKept_completeDrain (m : Mrs) (s : State) : GlobalsKept s (completeDrain m s) :=
  GlobalsKept.trans (t := { s with
    arb := { s.arb with configuredMrs := m, outcome := .done, reshape := .idle },
    target := { s.target with effMrs := s.target.maxReq.map m.smaller } }) (.of_globals rfl) (globalsKept_raiseEvent ..)

theorem globalsKept_drainTest (s : State) : GlobalsKept s (drainTest s) := by
  rcases drainTest_cases s with e | ⟨m, _, _, _, _, e⟩ <;> rw [e]
  · exact .refl s
  · exact globalsKept_completeDrain m s

theorem globalsKept_retire (h : Port) (i : Slot) (n : Nat) (o : SubOutcome) (s : State) :
    GlobalsKept s (retire h i n o s) :=
  .of_globals (by simp [State.globals])

theorem globalsKept_retireAll (o : SubOutcome) (es : List (Port × Slot × Nat × Tag)) (s : State) :
    GlobalsKept s (retireAll o es s) :=
  .of_globals (by simp [State.globals])

theorem globalsKept_lapse (t : Tag) (r : TagRec) (s : State) : GlobalsKept s (lapse t r s) := by
  rw [lapse_eq]
  exact globalsKept_setTag ..

theorem globalsKept_portResetTaken (h : Port) (c : EndCause) (s : State) : GlobalsKept s (portResetTaken h c s) := by
  have hlogged (e : LogEntry) : GlobalsKept s (raiseEvent (eventLinkDown h) (appendLog e s)) :=
    (globalsKept_appendLog ..).trans (globalsKept_raiseEvent ..)
  have hcleared (a : State) (tags : Vector (Option TagRec) 128) (b : Arbiter) (now : Tick) :
      GlobalsKept a (({ a with tags := tags, arb := b } : State).modPort h (resetPort now c)) :=
    .of_globals rfl
  exact ((hlogged _).trans (hcleared ..)).trans (globalsKept_drainTest _)

/-! Evaluations and grants -/

theorem Evaluated.globalsKept {s e : State} (h : Evaluated s e) : GlobalsKept s e :=
  .of_globals (congrArg State.globals h.frame :)

theorem globalsKept_grantWith (h : Port) (x : Head) (tag : Option Tag) (s : State) :
    GlobalsKept s (grantWith h x tag s) := by
  have hgranted : GlobalsKept s (granted h x tag s) :=
    .of_globals (congrArg State.globals (granted_frame h x tag s) :)
  exact hgranted.trans (globalsKept_drainTest _)

theorem globalsKept_issueGrantStep (s : State) : GlobalsKept s (issueGrantStep s) := by
  have heval := (evaluated_evaluate s).globalsKept
  unfold issueGrantStep
  dsimp only
  split
  · exact heval
  · split
    · exact heval.trans (globalsKept_grantWith ..)
    · exact heval

theorem globalsKept_grantRetry (t : Tag) (r : TagRec) (d : Tick) (s : State) : GlobalsKept s (grantRetry t r d s) :=
  .of_globals rfl

theorem globalsKept_retryGrantStep (s : State) : GlobalsKept s (retryGrantStep s) := by
  have heval := (evaluated_evaluate s).globalsKept
  unfold retryGrantStep
  dsimp only
  split
  · exact heval.trans (globalsKept_grantRetry ..)
  · exact heval

theorem globalsKept_atOpportunity {f : State → State} (hf : ∀ a, GlobalsKept a (f a)) (s : State) :
    GlobalsKept s (atOpportunity f s) :=
  atOpportunity_keeps (P := GlobalsKept s) (fun a ha => ha.trans (hf a)) (.refl s)

theorem globalsKept_startDrain (size : Mrs) (s : State) : GlobalsKept s (startDrain size s) := by
  rw [startDrain_eq]
  exact GlobalsKept.trans (t := drainStarted size s) (.of_globals rfl) (globalsKept_drainTest _)

theorem globalsKept_takeDrainLimit (s : State) : GlobalsKept s (takeDrainLimit s) := by
  unfold takeDrainLimit
  split
  · exact .refl s
  · split
    · refine GlobalsKept.trans (GlobalsKept.trans ?_ (globalsKept_appendLog ..)) (globalsKept_raiseEvent ..)
      exact .of_globals rfl
    · exact .refl s

/-! The target lane -/

theorem globalsKept_dropPost (h : Port) (i : Slot) (s : State) : GlobalsKept s (dropPost h i s) := by
  unfold dropPost
  split
  · exact .refl s
  · exact (globalsKept_appendLog _ s).trans (globalsKept_modPort ..)

theorem globalsKept_failRecord (h : Port) (i : Slot) (s : State) : GlobalsKept s (failRecord h i s) := by
  unfold failRecord
  split
  · exact .refl s
  · split
    · split
      · exact .of_globals rfl
      · exact globalsKept_modPort ..
      · exact globalsKept_dropPost h i s
      · exact .refl s
    · exact .refl s

theorem globalsKept_failPorts (s : State) : GlobalsKept s (failPorts s) := by
  refine globalsKept_foldl (fun a h => ?_) _ s
  split
  · exact globalsKept_foldl (fun b i => (globalsKept_failRecord h i b).trans (globalsKept_modPort ..)) _ a
  · exact .refl a

theorem globalsKept_releaseAll (s : State) : GlobalsKept s (releaseAll s) := by
  have hreleased (a : State) :
      GlobalsKept a
        { a with tags := Vector.replicate 128 none, arb := { a.arb with retryQ := [], dataHold := none } } :=
    .of_globals rfl
  have hretired := (globalsKept_retireAll .linkDown (liveEntries s) s).trans (hreleased _)
  unfold releaseAll
  dsimp only
  split
  · exact hretired
  · exact hretired.trans (globalsKept_completeDrain ..)

theorem globalsKept_targetLoss (c : DownCause) (s : State) : GlobalsKept s (targetLoss c s) := by
  unfold targetLoss
  exact ((((globalsKept_modTarget ..).trans (globalsKept_releaseAll _)).trans (globalsKept_failPorts _)).trans
    (globalsKept_modPorts ..)).trans (globalsKept_appendLog ..)

theorem globalsKept_loseTarget (s : State) : GlobalsKept s (loseTarget s) := by
  have hlevel := globalsKept_modTarget s fun l => { l with carrier := false }
  unfold loseTarget
  dsimp only
  split
  · exact hlevel.trans (globalsKept_modTarget ..)
  · exact hlevel.trans (globalsKept_targetLoss ..)
  · exact hlevel
  · exact hlevel

theorem globalsKept_downWith (c : DownCause) (s : State) : GlobalsKept s (downWith c s) := by
  unfold downWith
  split
  · exact globalsKept_modTarget ..
  · exact globalsKept_targetLoss c s
  · exact .refl s
  · exact .refl s

theorem globalsKept_endStranded (m : Mrs) (h : Port) (i : Slot) (s : State) : GlobalsKept s (endStranded m h i s) := by
  unfold endStranded
  split
  · exact .refl s
  · split
    · split
      · exact (globalsKept_dropPost ..).trans (globalsKept_modPort ..)
      · exact globalsKept_modPort ..
    · exact .refl s

theorem globalsKept_bringUp (hdr data : Nat) (m : Mrs) (s : State) : GlobalsKept s (bringUp hdr data m s) := by
  have hstranded (a : State) : GlobalsKept a (endAllStranded m a) :=
    globalsKept_foldl (fun b h => globalsKept_foldl (fun d i => globalsKept_endStranded m h i d) _ b) _ a
  unfold bringUp
  exact ((((globalsKept_modTarget ..).trans (hstranded _)).trans (globalsKept_modPorts ..)).trans
    (globalsKept_modTarget ..)).trans (globalsKept_drainTest _)

theorem globalsKept_takeTrainAck (hdr data size : Nat) (s : State) : GlobalsKept s (takeTrainAck hdr data size s) := by
  unfold takeTrainAck
  split
  · split
    · exact globalsKept_bringUp ..
    · exact globalsKept_modTarget ..
  · exact .refl s
  · exact .refl s
  · exact .refl s

theorem globalsKept_takeTcredit (hdr data : Nat) (s : State) : GlobalsKept s (takeTcredit hdr data s) := by
  unfold takeTcredit
  split
  · exact globalsKept_modTarget ..
  · exact globalsKept_targetLoss ..

theorem globalsKept_detectTarget (s : State) : GlobalsKept s (detectTarget s) := by
  unfold detectTarget
  dsimp only
  split <;> exact .of_globals rfl

theorem globalsKept_takeTrainEnd (s : State) : GlobalsKept s (takeTrainEnd s) := by
  unfold takeTrainEnd
  split
  · split
    · exact globalsKept_modTarget ..
    · exact .refl s
  · exact .refl s

theorem globalsKept_endTargetHoldoff (s : State) : GlobalsKept s (endTargetHoldoff s) := by
  unfold endTargetHoldoff
  split
  · split
    · split <;> exact globalsKept_modTarget ..
    · exact .refl s
  · exact .refl s

/-! Completion parts -/

theorem globalsKept_acceptData (t : Tag) (r : TagRec) (d : Tick) (n : Nat) (s : State) :
    GlobalsKept s (acceptData t r d n s) := by
  rw [acceptData_eq]
  exact globalsKept_setTag ..

theorem globalsKept_placeData (r : TagRec) (poisoned : Bool) (data : List Byte) (s : State) :
    GlobalsKept s (placeData r poisoned data s) := by
  unfold placeData
  split
  · exact .refl s
  · dsimp only
    split <;> exact .of_globals rfl

theorem globalsKept_livePart (t : Tag) (r : TagRec) (d : Tick) (q : Part) (s : State) :
    GlobalsKept s (livePart t r d q s) := by
  unfold livePart
  split
  · exact ((globalsKept_lapse ..).trans (globalsKept_appendLog ..)).trans (globalsKept_retire ..)
  · unfold takeRetry
    split
    · exact globalsKept_setTag ..
    · exact ((globalsKept_setTag ..).trans (globalsKept_appendLog ..)).trans (globalsKept_retire ..)
  · exact (globalsKept_setTag ..).trans (globalsKept_retire ..)
  · rename_i poisoned _
    have haccept := (globalsKept_placeData r poisoned q.data s).trans (globalsKept_acceptData t r d q.data.length _)
    dsimp only
    split
    · exact haccept.trans (globalsKept_retire ..)
    · exact haccept

theorem globalsKept_orphanPart (t : Tag) (r : TagRec) (d : Tick) (q : Part) (s : State) :
    GlobalsKept s (orphanPart t r d q s) := by
  unfold orphanPart
  split
  · exact (globalsKept_lapse ..).trans (globalsKept_appendLog ..)
  · exact globalsKept_setTag ..
  · exact globalsKept_setTag ..
  · exact globalsKept_acceptData ..

theorem globalsKept_takePart (t : Tag) (q : Part) (s : State) : GlobalsKept s (takePart t q s) := by
  unfold takePart
  split
  · exact globalsKept_appendLog ..
  · rename_i r _
    have hrunning (d : Tick) : GlobalsKept s (if r.orphaned then orphanPart t r d q s else livePart t r d q s) := by
      split
      · exact globalsKept_orphanPart ..
      · exact globalsKept_livePart ..
    split
    · exact globalsKept_appendLog ..
    · exact globalsKept_appendLog ..
    · exact hrunning _
    · exact hrunning _

/-! Host lanes and sessions -/

theorem globalsKept_attachHandshake (h : Port) (mask : NoticeBits) (hdr data : Nat) (s : State) :
    GlobalsKept s (attachHandshake h mask hdr data s) := by
  unfold attachHandshake
  split
  · exact globalsKept_modPort ..
  · exact (globalsKept_modPort ..).trans (globalsKept_raiseEvent ..)

theorem globalsKept_takeAttach (h : Port) (mask : NoticeBits) (hdr data : Nat) (s : State) :
    GlobalsKept s (takeAttach h mask hdr data s) := by
  unfold takeAttach
  split
  · exact globalsKept_attachHandshake ..
  · exact globalsKept_attachHandshake ..
  · exact (globalsKept_portResetTaken ..).trans (globalsKept_attachHandshake ..)
  · exact .refl s
  · exact .refl s

theorem globalsKept_portResetOnLane (h : Port) (s : State) : GlobalsKept s (portResetOnLane h s) := by
  unfold portResetOnLane
  split
  · exact globalsKept_portResetTaken ..
  · exact globalsKept_modPort ..
  · exact globalsKept_modPort ..
  · exact .refl s
  · exact .refl s

theorem globalsKept_disableLane (h : Port) (s : State) : GlobalsKept s (disableLane h s) := by
  unfold disableLane
  split
  · exact globalsKept_portResetTaken ..
  · exact globalsKept_modPort ..
  · exact .refl s
  · exact .refl s
  · exact .refl s

theorem globalsKept_failCheck (h : Port) (s : State) : GlobalsKept s (failCheck h s) := by
  unfold failCheck
  split
  · exact globalsKept_modPort ..
  · exact globalsKept_modPort ..
  · exact globalsKept_portResetTaken ..
  · exact .refl s
  · exact .refl s

theorem globalsKept_loseCarrier (h : Port) (s : State) : GlobalsKept s (loseCarrier h s) := by
  have hlevel := globalsKept_modPort s h fun p => { p with carrier := false }
  unfold loseCarrier
  dsimp only
  split
  · exact hlevel.trans (globalsKept_modPort ..)
  · exact hlevel.trans (globalsKept_modPort ..)
  · exact hlevel.trans (globalsKept_portResetTaken ..)
  · exact hlevel
  · exact hlevel

theorem globalsKept_endHoldoff (h : Port) (s : State) : GlobalsKept s (endHoldoff h s) := by
  unfold endHoldoff
  split
  · exact globalsKept_modPort ..
  · exact .refl s

theorem globalsKept_takeStallExpiry (h : Port) (s : State) : GlobalsKept s (takeStallExpiry h s) := by
  unfold takeStallExpiry
  split
  · have hnoted (e : LogEntry) : GlobalsKept s (raiseEvent (eventStall h) (appendLog e s)) :=
      (globalsKept_appendLog ..).trans (globalsKept_raiseEvent ..)
    dsimp only
    split
    · exact (hnoted _).trans (globalsKept_modPort ..)
    · exact (hnoted _).trans (globalsKept_portResetTaken ..)
    · exact (hnoted _).trans (globalsKept_portResetTaken ..)
  · exact .refl s

/-! Requests -/

theorem globalsKept_admitRequest (h : Port) (i : Slot) (r : ReqRec) (id : HostId) (addr : BitVec 48) (s : State) :
    GlobalsKept s (admitRequest h i r id addr s) := by
  unfold admitRequest
  split
  · exact globalsKept_modPort ..
  · dsimp only
    split
    · exact globalsKept_modPort ..
    · split
      · exact globalsKept_modPort ..
      · split
        · exact (globalsKept_modPort ..).trans (globalsKept_appendLog ..)
        · exact globalsKept_modPort ..

theorem globalsKept_intake (h : Port) (kind : BitVec 8) (id : HostId) (cls : BitVec 2) (addr : BitVec 48) (len : Nat)
    (data : List Byte) (i : Slot) (blocks : List StageBlock) (s : State) :
    GlobalsKept s (intake h kind id cls addr len data i blocks s) := by
  have hconsume := globalsKept_modPort s h (consume blocks data)
  unfold intake
  dsimp only
  split
  · exact (hconsume.trans (globalsKept_modPort ..)).trans (globalsKept_appendLog ..)
  · exact hconsume.trans (globalsKept_admitRequest ..)

theorem globalsKept_request {s t : State} {h : Port} {kind : BitVec 8} {id : HostId} {cls : BitVec 2}
    {addr : BitVec 48} {len : BitVec 16} {data : List Byte}
    (ht : exec (.request h kind id cls addr len data) s = .next t) : GlobalsKept s t := by
  rcases execRequest_cases h kind id cls addr len data s with he | he | ⟨i, blocks, -, he⟩ | ⟨-, -, f, he⟩ <;>
    rw [he] at ht <;> cases ht
  · exact .refl s
  · exact ((globalsKept_modPort ..).trans (globalsKept_appendLog ..)).trans (globalsKept_reportAll _)
  · exact (globalsKept_intake ..).trans (globalsKept_reportAll _)

/-! The commands that write none of them -/

theorem globalsKept_commandReshape (b : BitVec 16) (s : State) : GlobalsKept s (commandReshape b s) := by
  unfold commandReshape
  split
  · exact globalsKept_setResult ..
  · split
    · exact globalsKept_setResult ..
    · exact (globalsKept_startDrain ..).trans (globalsKept_setResult ..)

theorem globalsKept_commandPortReset (a : BitVec 8) (s : State) : GlobalsKept s (commandPortReset a s) := by
  unfold commandPortReset
  split
  · exact globalsKept_setResult ..
  · exact (globalsKept_portResetOnLane ..).trans (globalsKept_setResult ..)

theorem globalsKept_commandTargetReset (s : State) : GlobalsKept s (commandTargetReset s) :=
  (globalsKept_downWith ..).trans (globalsKept_setResult ..)

theorem globalsKept_commandTableFetch (a : BitVec 8) (b : BitVec 16) (s : State) :
    GlobalsKept s (commandTableFetch a b s) := by
  unfold commandTableFetch
  split <;> exact .of_globals rfl

/-- A plain address is none of those by which a register write becomes another command (R173, R180). -/
theorem writeRegister_of_plain {a : BitVec 16} (ha : plainAddress a = true) (w : Word) (s : State) :
    writeRegister a w s = writeStaging a w s := by
  simp only [plainAddress, Bool.and_eq_true, bne_iff_ne, ne_eq] at ha
  obtain ⟨⟨hcommand, hpending⟩, henable⟩ := ha
  rw [writeRegister, if_neg hpending, if_neg henable, if_neg hcommand]

theorem globalsKept_writeRegister {a : BitVec 16} (ha : plainAddress a = true) (w : Word) (s : State) :
    GlobalsKept s (writeRegister a w s) := by
  rw [writeRegister_of_plain ha]
  unfold writeStaging
  split <;> exact .of_globals rfl

theorem globalsKept_invalidCommand (w : Word) (s : State) :
    GlobalsKept s (if commandInRange w then s else answerInvalid (commandCode w) s) := by
  split
  · exact .refl s
  · exact globalsKept_setResult ..

/-! The expiries and the tick -/

theorem globalsKept_expireTag (t : Tag) (s : State) : GlobalsKept s (expireTag t s) := by
  unfold expireTag
  split
  · exact .refl s
  · dsimp only
    split
    · exact .refl s
    · exact .of_globals rfl
    · exact (globalsKept_lapse ..).trans (globalsKept_appendLog ..)
    · exact (globalsKept_lapse ..).trans (globalsKept_appendLog ..)

theorem globalsKept_takeDeadlines (s : State) : GlobalsKept s (takeDeadlines s) :=
  ((globalsKept_foldl (fun a t => globalsKept_expireTag t a) _ s).trans (globalsKept_retireAll ..)).trans
    (globalsKept_drainTest _)

theorem globalsKept_takeBackoffEnds (s : State) : GlobalsKept s (takeBackoffEnds s) := by
  refine globalsKept_foldl (fun a t => ?_) _ s
  unfold endBackoff
  split
  · exact .refl a
  · split
    · exact .of_globals rfl
    · exact .refl a

theorem globalsKept_takeQuarantineEnds (s : State) : GlobalsKept s (takeQuarantineEnds s) :=
  globalsKept_foldl (fun a t => globalsKept_setTag a t none) _ s

theorem globalsKept_closeTick (s : State) : GlobalsKept s (closeTick s) :=
  ((((((((globalsKept_takeDeadlines s).trans (globalsKept_reportAll _)).trans (globalsKept_takeBackoffEnds _)).trans
    (globalsKept_takeQuarantineEnds _)).trans (globalsKept_takeDrainLimit _)).trans
    (globalsKept_foldl (fun a h => globalsKept_takeStallExpiry h a) allPorts _)).trans
    (globalsKept_foldl (fun a h => globalsKept_endHoldoff h a) allPorts _)).trans
    (globalsKept_endTargetHoldoff _)).trans (globalsKept_takeTrainEnd _)

theorem advance_timebase (s : State) : (advance s).timebase = s.timebase + 1 := rfl

/-- The rise of the timebase writes it and the stall timers alone (R97, R141). -/
theorem advance_frame (s : State) : { advance s with timebase := s.timebase, ports := s.ports } = s := rfl

theorem globalsKept_advance (s : State) : GlobalsKept { s with timebase := (advance s).timebase } (advance s) :=
  .of_globals rfl

/-! The writers -/

/-- The state before a command, but for the one part that the command writes, which is as the command leaves it. -/
def ownWrite (c : Instr) (s t : State) : State :=
  match c with
  | .tickEvent => { s with timebase := t.timebase }
  | .tableCommit _ _ => { s with policy := t.policy }
  | .eventEnableWrite _ => { s with events := { s.events with enable := t.events.enable } }
  | .eventPendingWrite _ => { s with events := { s.events with occ := t.events.occ } }
  | _ => s

section

variable {c : Instr} (s t : State)

theorem ownWrite_timebase (hc : c ≠ .tickEvent) : (ownWrite c s t).timebase = s.timebase := by
  cases c with
  | tickEvent => exact absurd rfl hc
  | _ => rfl

theorem ownWrite_policy (hc : ∀ a b, c ≠ .tableCommit a b) : (ownWrite c s t).policy = s.policy := by
  cases c with
  | tableCommit a b => exact absurd rfl (hc a b)
  | _ => rfl

theorem ownWrite_enable (hc : ∀ w, c ≠ .eventEnableWrite w) : (ownWrite c s t).events.enable = s.events.enable := by
  cases c with
  | eventEnableWrite w => exact absurd rfl (hc w)
  | _ => rfl

theorem ownWrite_occ (hc : ∀ w, c ≠ .eventPendingWrite w) : (ownWrite c s t).events.occ = s.events.occ := by
  cases c with
  | eventPendingWrite w => exact absurd rfl (hc w)
  | _ => rfl

theorem ownWrite_mgmt : (ownWrite c s t).mgmt = s.mgmt := by
  cases c <;> rfl

end

theorem GlobalsKept.with_timebase {s t : State} (h : GlobalsKept s t) (now : Tick) :
    GlobalsKept { s with timebase := now } { t with timebase := now } :=
  ⟨rfl, h.policy, h.enable, h.occ, h.resetCause⟩

/-- An event is not taken, or taken. -/
theorem takes_eq_next {f : State → State} {s t : State} (ht : takes f s = .next t) : t = s ∨ t = f s := by
  cases ht
  split
  · exact .inl rfl
  · exact .inr rfl

/-- A tick event writes the timebase alone of them (R97). -/
theorem tickEvent_ownWrite {s t : State} (ht : exec .tickEvent s = .next t) :
    GlobalsKept { s with timebase := t.timebase } t := by
  rcases takes_eq_next (f := fun a => advance (closeTick a)) ht with rfl | rfl
  · exact .refl _
  · exact ((globalsKept_closeTick s).with_timebase _).trans (globalsKept_advance _)

theorem globalsKept_noticeChange (h : Port) (b : Bool) (s : State) : GlobalsKept s (noticeChange h b s) := by
  unfold noticeChange
  split
  · exact globalsKept_modPort ..
  · exact .refl s

/-- A commit that is accepted writes a policy, and beyond it none of them (R184, R188). -/
theorem commitTable_globalsKept {s t : State} {x : TableIndex} (ht : commitTable x s = some t) :
    ∃ p, GlobalsKept { s with policy := p } t := by
  cases x with
  | port h =>
    simp only [commitTable, commitPort] at ht
    split at ht
    · cases ht
    · rename_i p _
      split at ht
      · cases ht
        have hlane : GlobalsKept (setPortPolicy h p s)
            (if p.enabled then setPortPolicy h p s else disableLane h (setPortPolicy h p s)) := by
          split
          · exact .refl _
          · exact globalsKept_disableLane ..
        exact ⟨(setPortPolicy h p s).policy, hlane.trans (globalsKept_noticeChange ..)⟩
      · cases ht
  | window i =>
    simp only [commitTable, commitWindow] at ht
    split at ht
    · cases ht
      exact ⟨_, globalsKept_noticeChange _ _ (setWindow i _ s)⟩
    · cases ht
  | global =>
    obtain ⟨g, -, rfl⟩ := Option.map_eq_some_iff.1 ht
    exact ⟨_, .refl (setGlobal g s)⟩

theorem commandTableCommit_globalsKept (a : BitVec 8) (b : BitVec 16) (s : State) :
    ∃ p, GlobalsKept { s with policy := p } (commandTableCommit a b s) := by
  unfold commandTableCommit
  split
  · exact ⟨s.policy, globalsKept_setResult _ _ s⟩
  · split
    · exact ⟨s.policy, globalsKept_setResult _ _ s⟩
    · obtain ⟨p, hp⟩ := commitTable_globalsKept ‹_›
      exact ⟨p, hp.trans (globalsKept_setResult ..)⟩

/-- A commit writes the policy alone of them (R184). -/
theorem tableCommit_ownWrite {s t : State} {a : BitVec 8} {b : BitVec 16} (ht : exec (.tableCommit a b) s = .next t) :
    GlobalsKept { s with policy := t.policy } t := by
  rcases takes_eq_next (f := fun u => reportAll (commandTableCommit a b u)) ht with rfl | rfl
  · exact .refl _
  · obtain ⟨p, hp⟩ := commandTableCommit_globalsKept a b s
    obtain ⟨htime, -, henable, hocc, hcause⟩ := hp.trans (globalsKept_reportAll _)
    exact ⟨htime, rfl, henable, hocc, hcause⟩

/-- The write of EVENT_ENABLE writes the enable set alone of them (R173). -/
theorem eventEnableWrite_ownWrite {s t : State} {w : Word} (ht : exec (.eventEnableWrite w) s = .next t) :
    GlobalsKept { s with events := { s.events with enable := t.events.enable } } t := by
  rcases takes_eq_next ht with rfl | rfl <;> exact .of_globals rfl

/-- The write of EVENT_PENDING writes the occurrences alone of them (R173). -/
theorem eventPendingWrite_ownWrite {s t : State} {w : Word} (ht : exec (.eventPendingWrite w) s = .next t) :
    GlobalsKept { s with events := { s.events with occ := t.events.occ } } t := by
  rcases takes_eq_next ht with rfl | rfl <;> exact .of_globals rfl

/-! Every command -/

theorem takes_globalsKept {s t : State} {f : State → State} (hf : ∀ a, GlobalsKept a (f a))
    (ht : takes f s = .next t) : GlobalsKept s t :=
  takes_keeps (P := GlobalsKept s) (fun a ha => ha.trans (hf a)) (.refl s) ht

/-- An event and the reports after it. -/
theorem takes_reported_globalsKept {s t : State} {f : State → State} (hf : ∀ a, GlobalsKept a (f a))
    (ht : takes (fun a => reportAll (f a)) s = .next t) : GlobalsKept s t :=
  takes_globalsKept (fun a => (hf a).trans (globalsKept_reportAll _)) ht

/-- An event of one port, and the reports after it. -/
theorem takes_port_globalsKept {s t : State} {h : Port} (f : State → PortState → PortState)
    (ht : takes (fun a => reportAll (a.modPort h (f a))) s = .next t) : GlobalsKept s t :=
  takes_reported_globalsKept (fun a => globalsKept_modPort a h (f a)) ht

/-- An event taken under a condition. -/
theorem globalsKept_when (c : State → Bool) {f : State → State} (hf : ∀ a, GlobalsKept a (f a)) (s : State) :
    GlobalsKept s (if c s then f s else s) := by
  split
  · exact hf s
  · exact .refl s

/-- Every command but the part resets writes at most its own part of the state that has one writer. -/
theorem exec_ownWrite {c : Instr} {s t : State} (hwf : c.wellFormed = true) (ht : exec c s = .next t)
    (hpower : c ≠ .powerOnReset) (hpin : c ≠ .pinReset) (hsoft : c ≠ .softReset) :
    GlobalsKept (ownWrite c s t) t := by
  cases c with
  | tickEvent => exact tickEvent_ownWrite ht
  | deadlineExpiry => exact takes_reported_globalsKept globalsKept_takeDeadlines ht
  | backoffEnd => exact takes_globalsKept globalsKept_takeBackoffEnds ht
  | quarantineEnd => exact takes_globalsKept globalsKept_takeQuarantineEnds ht
  | drainLimitExpiry => exact takes_globalsKept globalsKept_takeDrainLimit ht
  | drainComplete => exact takes_globalsKept globalsKept_drainTest ht
  | stallExpiry h => exact takes_globalsKept (globalsKept_takeStallExpiry h) ht
  | hostCarrierDetect h =>
    cases ht
    split
    · exact globalsKept_modPort ..
    · exact globalsKept_modPort ..
  | hostCarrierLoss h =>
    cases ht
    split
    · exact globalsKept_modPort ..
    · exact globalsKept_loseCarrier h s
  | hostCheckFailure h => exact takes_globalsKept (globalsKept_failCheck h) ht
  | hostHoldoffEnd h => exact takes_globalsKept (globalsKept_endHoldoff h) ht
  | attach h mask hdr data => exact takes_reported_globalsKept (globalsKept_takeAttach h mask hdr.toNat data.toNat) ht
  | request h kind id cls addr len data => exact globalsKept_request ht
  | credit h hdr data =>
    exact takes_globalsKept (globalsKept_when (fun a => (a.port h).isActive) fun a =>
      (globalsKept_modPort a h (takeCredit hdr.toNat data.toNat)).trans (globalsKept_reportAll _)) ht
  | noticeAck h bits =>
    exact takes_globalsKept (globalsKept_when (fun a => (a.port h).isActive) fun a =>
      (globalsKept_modPort a h (acknowledge bits)).trans (globalsKept_reportAll _)) ht
  | hostUnusablePacket h bytes => exact takes_globalsKept .refl ht
  | attachAnswerStart h => exact takes_port_globalsKept (fun _ => startIf .answer startAnswer) ht
  | grantTransmissionStart h => exact takes_port_globalsKept (fun _ => startIf .grant startGrant) ht
  | noticeTransmissionStart h => exact takes_port_globalsKept (fun _ => startIf .notice startNotice) ht
  | responseTransmissionStart h =>
    exact takes_port_globalsKept (fun a => startIf .response (startResponse a.buffer)) ht
  | responseTransmissionEnd h => exact takes_port_globalsKept (fun _ => endResponse) ht
  | grantTransmissionEnd h => exact takes_port_globalsKept (fun _ => endGrant) ht
  | hostTransmissionEnd h => exact takes_port_globalsKept (fun _ => endOther) ht
  | targetCarrierDetect =>
    cases ht
    split
    · exact globalsKept_modTarget ..
    · exact globalsKept_detectTarget s
  | targetCarrierLoss =>
    cases ht
    split
    · exact globalsKept_modTarget ..
    · exact (globalsKept_loseTarget s).trans (globalsKept_reportAll _)
  | targetCheckFailure => exact takes_reported_globalsKept (globalsKept_downWith .protocol) ht
  | trainAck hdr data size =>
    exact takes_reported_globalsKept (globalsKept_takeTrainAck hdr.toNat data.toNat size.toNat) ht
  | trainEndTickExpiry => exact takes_globalsKept globalsKept_takeTrainEnd ht
  | targetHoldoffEnd => exact takes_globalsKept globalsKept_endTargetHoldoff ht
  | tcpl tag status remaining data =>
    exact takes_globalsKept (globalsKept_when State.targetUp fun a =>
      ((globalsKept_takePart tag ⟨status, remaining.toNat, data⟩ a).trans (globalsKept_drainTest _)).trans
        (globalsKept_reportAll _)) ht
  | tcredit hdr data =>
    exact takes_globalsKept (globalsKept_when State.targetUp fun a =>
      (globalsKept_takeTcredit hdr.toNat data.toNat a).trans (globalsKept_reportAll _)) ht
  | targetUnusablePacket bytes => exact takes_globalsKept .refl ht
  | treqTransmissionEnd => exact takes_globalsKept (fun a => globalsKept_modTarget a endTreq) ht
  | issueGrant => exact takes_reported_globalsKept (globalsKept_atOpportunity globalsKept_issueGrantStep) ht
  | retryGrant => exact takes_reported_globalsKept (globalsKept_atOpportunity globalsKept_retryGrantStep) ht
  | claimEntry =>
    exact takes_reported_globalsKept (globalsKept_atOpportunity fun a =>
      ((evaluated_ceilingRetires a).trans (evaluated_enterClaims _)).globalsKept) ht
  | dataCreditHold =>
    exact takes_reported_globalsKept (globalsKept_atOpportunity fun a => (evaluated_evaluate a).globalsKept) ht
  | readCeilingRetire =>
    exact takes_reported_globalsKept (globalsKept_atOpportunity fun a => (evaluated_ceilingRetires a).globalsKept) ht
  | fenceReady h => exact takes_port_globalsKept (fun _ => fenceTest) ht
  | eventPendingWrite w => exact eventPendingWrite_ownWrite ht
  | eventEnableWrite w => exact eventEnableWrite_ownWrite ht
  | registerWrite addr w => exact takes_globalsKept (globalsKept_writeRegister hwf w) ht
  | writeFrameDiscard => exact takes_globalsKept (f := endFrame) (fun _ => .of_globals rfl) ht
  | invalidCommand w => exact takes_globalsKept (globalsKept_invalidCommand w) ht
  | portReset a => exact takes_globalsKept (globalsKept_commandPortReset a) ht
  | targetReset => exact takes_reported_globalsKept globalsKept_commandTargetReset ht
  | softReset => exact absurd rfl hsoft
  | reshape b => exact takes_globalsKept (globalsKept_commandReshape b) ht
  | logPop => exact takes_globalsKept (f := commandLogPop) (fun _ => .of_globals rfl) ht
  | logClear => exact takes_globalsKept (f := commandLogClear) (fun _ => .of_globals rfl) ht
  | tableFetch a b => exact takes_globalsKept (globalsKept_commandTableFetch a b) ht
  | tableCommit a b => exact tableCommit_ownWrite ht
  | powerOnReset => exact absurd rfl hpower
  | pinReset => exact absurd rfl hpin
  | resetHoldBegin c => exact takes_globalsKept (f := beginHold c) (fun _ => .of_globals rfl) ht

end Sys2Proof.Machine

namespace Sys2Proof.Proofs

open Sys2Proof.Machine

/-- Settles O3: every command writes at most its own part, and what it does not write stands. -/
theorem globalStateHasOneWriter : Obligations.GlobalStateHasOneWriter := by
  intro c s t hwf ht hpower hpin hsoft
  obtain ⟨htime, hpolicy, henable, hocc, hcause⟩ := exec_ownWrite hwf ht hpower hpin hsoft
  refine ⟨fun hc => ?_, fun hc => ?_, fun hc => ?_, fun hc i hi => ?_, ?_⟩
  · rw [htime, ownWrite_timebase s t hc]
  · rw [hpolicy, ownWrite_policy s t hc]
  · rw [henable, ownWrite_enable s t hc]
  · exact hocc i (by rwa [ownWrite_occ s t hc])
  · rw [hcause, ownWrite_mgmt]

end Sys2Proof.Proofs
end

section
/-! SUPPORT. The tick event (R97, R98, R141): where nothing is due its closing part makes the reports of R127 alone; the
stall timers that it counts; and an end tick compared across the wrap. -/

namespace Sys2Proof.Machine

/-! A tick with nothing due -/

theorem tagDue_eq_false {s : State} :
    tagDue s = false ↔ ∀ t, deadlineDue s t = false ∧ backoffDue s t = false ∧ quarantineDue s t = false := by
  simp [tagDue, List.mem_finRange, and_assoc]

theorem drainTest_of_not_due {s : State} (h : drainDue s = false) : drainTest s = s := by
  cases hr : s.arb.reshape with
  | idle => exact drainTest_of_idle hr
  | draining m x y => exact drainTest_of_not_clear (by simpa [drainDue, hr] using h)

theorem takeDeadlines_of_not_due {s : State} (ht : ∀ t, deadlineDue s t = false) (hd : drainDue s = false) :
    takeDeadlines s = s := by
  have hnone : allTags.filter (deadlineDue s) = [] := List.filter_eq_nil_iff.2 fun t _ => by simp [ht t]
  simp [takeDeadlines, hnone, ht, retireAll, drainTest_of_not_due hd]

theorem takeBackoffEnds_of_not_due {s : State} (ht : ∀ t, backoffDue s t = false) : takeBackoffEnds s = s := by
  have hnone : allTags.filter (backoffDue s) = [] := List.filter_eq_nil_iff.2 fun t _ => by simp [ht t]
  rw [takeBackoffEnds, hnone, List.foldl_nil]

theorem takeQuarantineEnds_of_not_due {s : State} (ht : ∀ t, quarantineDue s t = false) :
    takeQuarantineEnds s = s := by
  have hnone : allTags.filter (quarantineDue s) = [] := List.filter_eq_nil_iff.2 fun t _ => by simp [ht t]
  rw [takeQuarantineEnds, hnone, List.foldl_nil]

theorem takeDrainLimit_of_not_due {s : State} (h : drainLimitDue s = false) : takeDrainLimit s = s := by
  cases hr : s.arb.reshape with
  | idle => simp [takeDrainLimit, hr]
  | draining m x y => exact takeDrainLimit_of_not_reached hr (by
      simpa only [drainLimitDue, hr, drainLimitReached, decide_eq_false_iff_not, Nat.not_le] using h)

theorem takeStallExpiry_of_not_due {s : State} {h : Port} (hs : stallExpiryDue s h = false) :
    takeStallExpiry h s = s := by
  simp [takeStallExpiry, hs]

theorem endHoldoff_of_not_due {s : State} {h : Port} (hs : holdoffDue s.timebase (s.port h) = false) :
    endHoldoff h s = s := by
  simp [endHoldoff, hs]

theorem holdoffDue_report (now : Tick) (p : PortState) : holdoffDue now (report p) = holdoffDue now p := by
  simp only [holdoffDue, report_link]

theorem targetTimers_of_not_due {s : State} (h : targetTimerDue s = false) : takeTrainEnd (endTargetHoldoff s) = s := by
  cases hl : s.target.link with
  | training e =>
    have he : reached s.timebase e = false := by simpa [targetTimerDue, hl] using h
    simp [endTargetHoldoff, takeTrainEnd, hl, he]
  | holdoff e =>
    have he : reached s.timebase e = false := by simpa [targetTimerDue, hl] using h
    simp [endTargetHoldoff, takeTrainEnd, hl, he]
  | down => simp [endTargetHoldoff, takeTrainEnd, hl]
  | up => simp [endTargetHoldoff, takeTrainEnd, hl]

/-- Where nothing is due, what a tick closes is the reports of R127. -/
theorem closeTick_of_nothingDue {s : State} (h : NothingDue s) : closeTick s = reportAll s := by
  obtain ⟨htags, hdrain, hlimit, htarget, hports⟩ := h
  rw [tagDue_eq_false] at htags
  have hstall : allPorts.foldl (fun a h => takeStallExpiry h a) (reportAll s) = reportAll s :=
    foldl_of_fixed _ fun h _ => takeStallExpiry_of_not_due (hports h).1
  have hholdoff : allPorts.foldl (fun a h => endHoldoff h a) (reportAll s) = reportAll s :=
    foldl_of_fixed _ fun h _ => endHoldoff_of_not_due (by
      rw [port_reportAll, holdoffDue_report]
      exact (hports h).2)
  unfold closeTick
  dsimp only
  rw [takeDeadlines_of_not_due (fun t => (htags t).1) hdrain,
    takeBackoffEnds_of_not_due (s := reportAll s) fun t => (htags t).2.1,
    takeQuarantineEnds_of_not_due (s := reportAll s) fun t => (htags t).2.2,
    takeDrainLimit_of_not_due (s := reportAll s) hlimit, hstall, hholdoff,
    targetTimers_of_not_due (s := reportAll s) htarget]

/-! The stall timers (R141) -/

theorem advance_port (s : State) (h : Port) :
    (advance s).port h = stallTick (s.portPolicy h).stallWindow (s.port h) := by
  unfold advance
  refine foldl_visits (P := fun a : State => a.port h = s.port h)
    (Q := fun a : State => a.port h = stallTick (s.portPolicy h).stallWindow (s.port h)) (List.nodup_finRange 4)
    (List.mem_finRange h) ?before ?turn ?later rfl
  case before => exact fun a g hg ha => (port_modPort_ne a _ (Ne.symm hg)).trans ha
  case turn => exact fun a ha => by rw [port_modPort_same, ha]
  case later => exact fun a g hg ha => (port_modPort_ne a _ (Ne.symm hg)).trans ha

theorem stallTick_stallMode (w : Nat) (p : PortState) : (stallTick w p).stallMode = p.stallMode := by
  unfold stallTick
  dsimp only
  split <;> rfl

theorem stallTick_stallCount (w : Nat) (p : PortState) :
    (stallTick w p).stallCount = if p.stallMode = .running then min 65535 (p.stallCount + 1) else p.stallCount := by
  unfold stallTick
  dsimp only
  split <;> rfl

/-! End ticks (R98) -/

/-- An end tick set for `d` ticks, compared `k` ticks later: the timebase at which it was set falls out of the
difference. -/
theorem reached_after (now : Tick) {d k : Nat} (hd : d ≤ 65535) (hk : k < 2 ^ 31) :
    reached (now + BitVec.ofNat 32 k) (after now d) = true ↔ d ≤ k := by
  have hdiff : now + BitVec.ofNat 32 k - (now + BitVec.ofNat 32 d) = BitVec.ofNat 32 k - BitVec.ofNat 32 d :=
    add_sub_add_left_eq_sub ..
  rw [reached, after, hdiff, decide_eq_true_iff, BitVec.toNat_sub, BitVec.toNat_ofNat, BitVec.toNat_ofNat]
  omega

end Sys2Proof.Machine

namespace Sys2Proof.Proofs

open Sys2Proof.Machine

/-- Settles O27: what a tick closes leaves the timebase, which then rises; where nothing is due it makes the reports
alone, and each stall timer is counted from there. -/
theorem tickAdvancesTheTimebase : Obligations.TickAdvancesTheTimebase := by
  refine ⟨fun s hhold => ⟨_, takes_next hhold fun a => advance (closeTick a), ?rises, fun hnone => ?counts⟩,
    fun now d k _ hd hk => reached_after now hd hk⟩
  case rises =>
    rw [advance_timebase, (globalsKept_closeTick s).timebase]
  case counts =>
    rw [closeTick_of_nothingDue hnone]
    have hframe := congrArg (fun a : State => { a with ports := s.ports }) (advance_frame (reportAll s))
    refine ⟨fun h => ?_, hframe.trans (reportAll_frame s)⟩
    have hport : (advance (reportAll s)).port h = stallTick (s.portPolicy h).stallWindow (report (s.port h)) := by
      rw [advance_port, port_reportAll]
      rfl
    rw [hport, stallTick_stallMode]
    exact ⟨rfl, rfl, stallTick_stallCount ..⟩

end Sys2Proof.Proofs
end

/-! Proofs about the host lanes (06): port resets and the moves of a lane, the reports and the outbound order, ATTACH, and the
requests that take no slot. -/

section
/-! SUPPORT. What a port reset leaves of its port and of the rest of the part, said once for every cause (R19, R71, R131,
R136, R137), and the moves of a host lane by its state (R115, R117, R118). -/

namespace Sys2Proof.Machine

/-! Packets cut off (R123) -/

/-- The transmitter is free, and the packet that was being sent is the last one cut off. -/
theorem cutOff_eq (f : CutForm) (p : PortState) :
    cutOff f p = { p with tx := none, lastCut := (p.tx.map fun k => (f, k)).or p.lastCut } := by
  unfold cutOff
  cases p with | mk => ?_
  dsimp only
  split <;> rfl

/-! Port resets -/

section

variable {lane : HostLink} {c : EndCause} {p q : PortState} (h : PortCleared lane c p q)
include h

theorem PortCleared.endCause : q.endCause = c := by
  obtain ⟨-, hcause, -⟩ := h
  exact hcause

theorem PortCleared.session : q.session = p.session := by
  obtain ⟨-, -, hsession, -⟩ := h
  exact hsession

theorem PortCleared.carrier : q.carrier = p.carrier := by
  obtain ⟨-, -, -, hcarrier, -⟩ := h
  exact hcarrier

/-- No record of the ended session is left, nor a response queued (R46). -/
theorem PortCleared.vacant : (∀ i : Slot, q.slot i = none) ∧ q.respQ = [] := by
  obtain ⟨-, -, -, -, -, -, -, -, -, -, -, -, -, hslots, hrespQ, -⟩ := h
  exact ⟨hslots, hrespQ⟩

end

theorem resetPort_cleared (now : Tick) (c : EndCause) (p : PortState) :
    PortCleared (laneAfter now c) c p (resetPort now c p) := by
  rw [resetPort, cutOff_eq]
  exact ⟨rfl, rfl, rfl, rfl, rfl, rfl, rfl, rfl, rfl, rfl, rfl, rfl, rfl, fun i => by simp [PortState.slot], rfl, rfl⟩

theorem portResetTaken_cleared (h : Port) (c : EndCause) (s : State) :
    PortCleared (laneAfter s.timebase c) c (s.port h) ((portResetTaken h c s).port h) := by
  rw [portResetTaken_port_same]
  exact resetPort_cleared ..

/-- The port that a port reset clears is no holder of a data-credit hold any more (R71). -/
theorem portResetTaken_dataHold (h : Port) (c : EndCause) (s : State) :
    (portResetTaken h c s).arb.dataHold ≠ some (.port h) := by
  obtain ⟨-, hhold, -⟩ := portResetTaken_arb h c s
  intro he
  rw [hhold, Option.filter_eq_some_iff] at he
  simp [holderOf] at he

theorem portResetTaken_linkDown (h : Port) (c : EndCause) (s : State) :
    (portResetTaken h c s).events.occ.getLsbD (4 + h.val) = true := by
  refine (globalsKept_drainTest _).occ _ ?_
  refine (getLsbD_occ_raiseEvent (eventLinkDown h) (4 + h.val) (appendLog _ s) ?_).trans ?_
  · unfold eventLinkDown
    omega
  · simp [eventLinkDown]

/-- A port reset leaves the round-robin as it stands (R71). -/
theorem portResetTaken_roundRobin (h : Port) (c : EndCause) (s : State) :
    ((portResetTaken h c s).arb.pointer, (portResetTaken h c s).arb.burst) = (s.arb.pointer, s.arb.burst) := by
  have hlogged (e : LogEntry) := congrArg (fun a : Arbiter => (a.pointer, a.burst)) (appendLog_arb e s)
  exact (congrArg (fun a : Arbiter => (a.pointer, a.burst)) (drainTest_arb _) :).trans (hlogged _)

theorem portResetTaken_left (h : Port) (c : EndCause) (s : State) : PortLeft h s (portResetTaken h c s) := by
  obtain ⟨hretries, -, hclaims⟩ := portResetTaken_arb h c s
  obtain ⟨hpointer, hburst⟩ := Prod.mk.inj (portResetTaken_roundRobin h c s)
  exact ⟨portResetTaken_tagRec h c s, hretries, hclaims, portResetTaken_dataHold h c s, hpointer, hburst,
    portResetTaken_linkDown h c s, portResetTaken_timebase h c s, portResetTaken_policy h c s,
    portResetTaken_buffer h c s, portResetTaken_pending h c s⟩

/-- A port reset logs SESSION_END with the session it ends and its cause (R137). -/
theorem portResetTaken_lastLogged (h : Port) (c : EndCause) (s : State) :
    LastLogged s (portResetTaken h c s)
      { kind := .sessionEnd, port := some h, session := some (s.port h).session, detail := some c.code } :=
  lastLogged_of_log _ rfl (portResetTaken_log h c s)

/-! Lanes without a session -/

theorem inHold_of_none {s : State} (h : s.hold = none) : s.inHold = false := by simp [State.inHold, h]

theorem exec_hostCarrierDetect {s : State} (hs : s.hold = none) (h : Port) :
    exec (.hostCarrierDetect h) s = .next (s.modPort h detectCarrier) := by
  simp [exec, execHostCarrierDetect, inHold_of_none hs]

theorem exec_hostCarrierLoss {s : State} (hs : s.hold = none) (h : Port) :
    exec (.hostCarrierLoss h) s = .next (loseCarrier h s) := by
  simp [exec, execHostCarrierLoss, inHold_of_none hs]

section

variable {s : State} {h : Port}

theorem loseCarrier_of_active (hl : (s.port h).link = .active) :
    loseCarrier h s = portResetTaken h .linkLoss (s.modPort h fun p => { p with carrier := false }) := by
  simp [loseCarrier, hl]

theorem loseCarrier_of_closed (hl : (s.port h).link = .waiting ∨ (s.port h).link = .fenced) :
    loseCarrier h s = s.modPort h fun p => enterDown (cutOff .closed { p with carrier := false }) := by
  rcases hl with hl | hl <;> simp [loseCarrier, hl, modPort_modPort_same]

theorem loseCarrier_of_silent (ha : (s.port h).link ≠ .active)
    (hc : ¬ ((s.port h).link = .waiting ∨ (s.port h).link = .fenced)) :
    loseCarrier h s = s.modPort h fun p => { p with carrier := false } := by
  unfold loseCarrier
  split <;> simp_all

theorem failCheck_of_active (hl : (s.port h).link = .active) : failCheck h s = portResetTaken h .linkError s := by
  simp [failCheck, hl]

theorem failCheck_of_closed (hl : (s.port h).link = .waiting ∨ (s.port h).link = .fenced) :
    failCheck h s = s.modPort h (enterHoldoff s.timebase) := by
  rcases hl with hl | hl <;> simp [failCheck, hl]

theorem failCheck_of_silent (ha : (s.port h).link ≠ .active)
    (hc : ¬ ((s.port h).link = .waiting ∨ (s.port h).link = .fenced)) : failCheck h s = s := by
  unfold failCheck
  split <;> simp_all

end

theorem holdoffDue_eq_true {now : Tick} {p : PortState} :
    holdoffDue now p = true ↔ ∃ e, p.link = .holdoff e ∧ reached now e = true := by
  cases hl : p.link <;> simp [holdoffDue, hl]

theorem endHoldoff_of_due {s : State} {h : Port} (hd : holdoffDue s.timebase (s.port h) = true) :
    endHoldoff h s = s.modPort h enterDown := if_pos hd

end Sys2Proof.Machine

namespace Sys2Proof.Proofs

open Sys2Proof.Machine

/-- Settles O32: each event by the lane's state; an ACTIVE port is left as `portResetTaken_cleared` and
`portResetTaken_left` say. -/
theorem hostLaneMoves : Obligations.HostLaneMoves := by
  intro h s hs
  refine ⟨?detect, ?loss, ?failure, ?ended, ?standing⟩
  case detect =>
    exact ⟨_, exec_hostCarrierDetect hs h, port_modPort_same .., fun g hg => port_modPort_ne _ _ hg, rfl⟩
  case loss =>
    refine ⟨_, exec_hostCarrierLoss hs h, ?_⟩
    by_cases ha : (s.port h).link = .active
    · rw [loseCarrier_of_active ha]
      have hcleared := portResetTaken_cleared h .linkLoss (s.modPort h fun p => { p with carrier := false })
      rw [port_modPort_same] at hcleared
      exact ⟨fun g hg => (portResetTaken_port_ne _ _ hg).trans (port_modPort_ne _ _ hg), hcleared.carrier,
        fun _ => ⟨hcleared, portResetTaken_left ..⟩, fun hc => by simp [ha] at hc, fun hne => absurd ha hne⟩
    by_cases hc : (s.port h).link = .waiting ∨ (s.port h).link = .fenced
    · rw [loseCarrier_of_closed hc, port_modPort_same, cutOff_eq]
      exact ⟨fun g hg => port_modPort_ne _ _ hg, rfl, fun hl => absurd hl ha, fun _ => ⟨rfl, rfl, rfl⟩,
        fun _ hw hf => absurd hc (not_or.2 ⟨hw, hf⟩)⟩
    · rw [loseCarrier_of_silent ha hc, port_modPort_same]
      exact ⟨fun g hg => port_modPort_ne _ _ hg, rfl, fun hl => absurd hl ha, fun hl => absurd hl hc,
        fun _ _ _ => ⟨rfl, rfl⟩⟩
  case failure =>
    refine ⟨_, takes_next hs (failCheck h), ?_⟩
    by_cases ha : (s.port h).link = .active
    · rw [failCheck_of_active ha]
      exact ⟨fun g hg => portResetTaken_port_ne _ _ hg,
        fun _ => ⟨portResetTaken_cleared .., portResetTaken_left .., portResetTaken_lastLogged ..⟩,
        fun hc => by simp [ha] at hc, fun hne => absurd ha hne⟩
    by_cases hc : (s.port h).link = .waiting ∨ (s.port h).link = .fenced
    · rw [failCheck_of_closed hc, port_modPort_same, enterHoldoff, cutOff_eq]
      exact ⟨fun g hg => port_modPort_ne _ _ hg, fun hl => absurd hl ha, fun _ => ⟨rfl, rfl, rfl, rfl⟩,
        fun _ hw hf => absurd hc (not_or.2 ⟨hw, hf⟩)⟩
    · rw [failCheck_of_silent ha hc]
      exact ⟨fun _ _ => rfl, fun hl => absurd hl ha, fun hl => absurd hl hc, fun _ _ _ => rfl⟩
  case ended =>
    intro e hl he
    refine ⟨_, takes_next hs (endHoldoff h), ?_⟩
    rw [endHoldoff_of_due (holdoffDue_eq_true.2 ⟨e, hl, he⟩)]
    exact ⟨port_modPort_same .., fun g hg => port_modPort_ne _ _ hg, rfl⟩
  case standing =>
    intro hnot
    refine (takes_next hs (endHoldoff h)).trans (congrArg _ (endHoldoff_of_not_due (Bool.eq_false_iff.2 fun hd => ?_)))
    obtain ⟨e, hl, he⟩ := holdoffDue_eq_true.1 hd
    rw [hnot e hl] at he
    cases he

end Sys2Proof.Proofs
end

section
/-! SUPPORT. The reports of R127 over plain fields, the outbound order of R126, and what CREDIT, NOTICE_ACK and the starts of
transmission make of a port. -/

namespace Sys2Proof.Machine

/-! The conditions of a port over plain fields -/

section

variable {p : PortState}

theorem isActive_iff : p.isActive = true ↔ p.link = .active := by simp [PortState.isActive]

theorem noticeDue_iff : p.noticeDue = true ↔ NoticeIsDue p := by simp [PortState.noticeDue]

theorem grantPending_iff : p.grantPending = true ↔ 0 < p.retHdr ∨ 0 < p.retData := by simp [PortState.grantPending]

theorem grantPending_eq_false : p.grantPending = false ↔ p.retHdr = 0 ∧ p.retData = 0 := by
  simp [PortState.grantPending]

theorem sendingResponse_iff : p.sendingResponse = true ↔ SendsResponse p := by
  unfold PortState.sendingResponse SendsResponse
  split <;> simp_all

theorem sendingAhead_eq_false :
    p.sendingAhead = false ↔ (∀ a b, p.tx ≠ some (.grant a b)) ∧ ∀ a, p.tx ≠ some (.answer a) := by
  unfold PortState.sendingAhead
  split <;> simp_all

theorem creditsFor_iff {i : Slot} {r : ReqRec} (hr : p.slot i = some r) :
    p.creditsFor i = true ↔ 1 ≤ p.respHdr ∧ r.dataNeed ≤ p.respData := by
  simp [PortState.creditsFor, hr]

theorem creditsFor_eq_false {i : Slot} :
    p.creditsFor i = false ↔ ∀ r, p.slot i = some r → p.respHdr = 0 ∨ p.respData < r.dataNeed := by
  cases hr : p.slot i with
  | none => simp [PortState.creditsFor, hr]
  | some r =>
    rw [Bool.eq_false_iff, Ne, creditsFor_iff hr]
    simp only [Option.some.injEq, forall_eq']
    omega

theorem waitingOnCredits_iff : p.waitingOnCredits = true ↔ WaitsOnCredits p := by
  simp only [PortState.waitingOnCredits, Bool.and_eq_true, Bool.not_eq_true', isActive_iff, Option.isNone_iff_eq_none,
    grantPending_eq_false, sendingAhead_eq_false, and_assoc]
  refine and_congr_right fun _ => and_congr_right fun _ => and_congr_right fun _ => and_congr_right fun _ =>
    and_congr_right fun _ => and_congr_right fun _ => ?_
  by_cases hn : NoticeIsDue p
  · rw [if_pos (noticeDue_iff.2 hn), decide_eq_true_iff]
    exact ⟨fun hz => .inl ⟨hn, hz⟩, fun hor => hor.elim And.right fun hnot => absurd hn hnot.1⟩
  · have hnot : p.noticeDue = false := Bool.eq_false_iff.2 fun e => hn (noticeDue_iff.1 e)
    cases hq : p.respQ with
    | nil => simp [hnot, hn, hq, HeadLacksCredits]
    | cons i rest =>
      have hsend : p.sendingResponse = false ↔ ¬ SendsResponse p := by
        rw [Bool.eq_false_iff, Ne, sendingResponse_iff]
      simp only [hnot, Bool.false_eq_true, if_false, List.head?_cons, Bool.and_eq_true, Bool.not_eq_true', hsend,
        creditsFor_eq_false, hn, false_and, not_false_eq_true, true_and, false_or, HeadLacksCredits, hq]
      refine and_congr_right fun _ => ⟨fun h => ⟨i, rest, rfl, h⟩, ?_⟩
      rintro ⟨_, _, he, h⟩
      cases he
      exact h

theorem nothingQueued_iff : p.nothingQueued = true ↔ NothingIsQueued p := by
  have hn : p.noticeDue = false ↔ ¬ NoticeIsDue p := by rw [Bool.eq_false_iff, Ne, noticeDue_iff]
  simp only [PortState.nothingQueued, Bool.and_eq_true, Bool.not_eq_true', hn, NothingIsQueued]
  refine and_congr_right fun _ => ?_
  by_cases hs : SendsResponse p
  · rw [if_pos (sendingResponse_iff.2 hs), List.isEmpty_iff, List.drop_eq_nil_iff, ← List.length_eq_zero_iff]
    simp only [hs, and_true]
    omega
  · rw [if_neg fun e => hs (sendingResponse_iff.1 e)]
    simp [hs]

end

/-! The reports (R127, R140) -/

section

variable {p : PortState}

theorem report_of_waiting (hw : WaitsOnCredits p) : report p = { p with stallMode := .running } := by
  have ⟨hl, _⟩ := hw
  simp [report, isActive_iff.2 hl, waitingOnCredits_iff.2 hw]

theorem report_of_stopped (hw : ¬ WaitsOnCredits p) (hs : p.stallMode = .stopped) : report p = p := by
  have hnot : p.waitingOnCredits = false := Bool.eq_false_iff.2 fun e => hw (waitingOnCredits_iff.1 e)
  simp [report, hnot, hs]

variable (ha : p.link = .active) (hw : ¬ WaitsOnCredits p) (hs : p.stallMode ≠ .stopped)
include ha hw hs

theorem report_of_not_waiting :
    report p = if p.nothingQueued then { p with stallMode := .stopped, stallCount := 0 }
      else { p with stallMode := .paused } := by
  have hnot : p.waitingOnCredits = false := Bool.eq_false_iff.2 fun e => hw (waitingOnCredits_iff.1 e)
  simp only [report, isActive_iff.2 ha, hnot, hs, Bool.not_true, Bool.false_eq_true, if_false]

theorem report_of_nothing (hn : NothingIsQueued p) : report p = { p with stallMode := .stopped, stallCount := 0 } :=
  (report_of_not_waiting ha hw hs).trans (if_pos (nothingQueued_iff.2 hn))

theorem report_of_queued (hn : ¬ NothingIsQueued p) : report p = { p with stallMode := .paused } :=
  (report_of_not_waiting ha hw hs).trans (if_neg fun e => hn (nothingQueued_iff.1 e))

end

/-- What the reports make of a stall timer is what the rows of R140 say. -/
theorem reported_report (p : PortState) : Reported p (report p) := by
  refine ⟨?frame, ?kept, fun hw => ?waiting, fun ha hw hs => ⟨fun hn => ?nothing, fun hn => ?queued⟩⟩
  case frame =>
    exact (congrArg (fun q => { q with stallMode := (report p).stallMode, stallCount := (report p).stallCount })
      (report_frame p) :)
  case kept =>
    rintro (ha | ⟨hw, hs⟩)
    · exact report_of_not_active (isActive_eq_false.2 ha)
    · exact report_of_stopped hw hs
  case waiting =>
    rw [report_of_waiting hw]
    exact ⟨rfl, rfl⟩
  case nothing =>
    rw [report_of_nothing ha hw hs hn]
    exact ⟨rfl, rfl⟩
  case queued =>
    rw [report_of_queued ha hw hs hn]
    exact ⟨rfl, rfl⟩

/-- While an attach answer is pending, the reports leave a STOPPED timer as it is (R140; log 10). -/
theorem report_of_answer {p : PortState} (ha : p.answer ≠ none) (hs : p.stallMode = .stopped) : report p = p :=
  report_of_stopped (fun ⟨_, hnone, _⟩ => ha hnone) hs

/-! NOTICE_ACK (R130) -/

theorem acknowledge_eq (bits : NoticeBits) (p : PortState) :
    acknowledge bits p =
      { p with noticePending := p.noticePending ||| (p.snapshot.getD 0 &&& ~~~bits), snapshot := none } := by
  unfold acknowledge
  cases p
  dsimp only
  split <;> simp

theorem acknowledge_of_none {p : PortState} (hsn : p.snapshot = none) (bits : NoticeBits) : acknowledge bits p = p := by
  simp [acknowledge, hsn]

theorem raiseNotice_eq (bits : NoticeBits) (p : PortState) :
    raiseNotice bits p = { p with noticePending := p.noticePending ||| if p.isActive then bits else 0 } := by
  unfold raiseNotice
  split <;> simp

/-- Raising bits and acknowledging others commute: the raised ones enter the pending set alone (R130). -/
theorem raiseNotice_acknowledge (b bits : NoticeBits) (p : PortState) :
    raiseNotice b (acknowledge bits p) = acknowledge bits (raiseNotice b p) := by
  simp only [raiseNotice_eq, acknowledge_eq, PortState.isActive]
  congr 1
  ac_rfl

/-! The outbound selection (R126) -/

section

variable {p : PortState} (ht : p.tx = none)
include ht

theorem selected_of_answer (hl : p.link.sends = true) (ha : p.answer ≠ none) : p.selected = some .answer := by
  simp [PortState.selected, ht, hl, Option.isSome_iff_ne_none, ha]

/-- In ACTIVE, with no attach answer pending, the selection goes through its other rows in order. -/
theorem selected_of_active (hl : p.link = .active) (ha : p.answer = none) :
    p.selected =
      if p.grantPending then some .grant
      else if p.noticeDue = true ∧ 1 ≤ p.respHdr then some .notice
      else p.respQ.head?.bind fun i => if p.creditsFor i then some .response else none := by
  have hsends : p.link.sends = true := by simp [hl, HostLink.sends]
  simp only [PortState.selected, ht, ha, hsends, isActive_iff.2 hl, Option.isSome_none, Bool.not_true, Bool.or_false,
    Bool.false_eq_true, if_false, Bool.and_eq_true, decide_eq_true_iff]
  cases p.respQ.head? <;> rfl

end

theorem selected_of_busy {p : PortState} {k : HostPacket} (ht : p.tx = some k) : p.selected = none := by
  simp [PortState.selected, ht]

/-- The selection names a NOTICE only where the host has granted a header credit for it (R126). -/
theorem respHdr_of_selected_notice {p : PortState} (hs : p.selected = some .notice) : 1 ≤ p.respHdr := by
  by_contra hc
  have hnot : (p.noticeDue && decide (1 ≤ p.respHdr)) = false := by simp [hc]
  simp only [PortState.selected, hnot, Bool.false_eq_true, if_false] at hs
  split_ifs at hs
  · cases hs
  · cases hs
  · split at hs
    · split_ifs at hs
      cases hs
    · cases hs

end Sys2Proof.Machine

namespace Sys2Proof.Proofs

open Sys2Proof.Machine

/-- Settles O35: the reports by `reported_report`; CREDIT rewrites its own port. -/
theorem creditIsClamped : Obligations.CreditIsClamped := by
  refine ⟨reported_report, fun h hdr data s hs hl => ?_⟩
  have htaken := takes_next hs fun s =>
    if (s.port h).isActive then reportAll (s.modPort h (takeCredit hdr.toNat data.toNat)) else s
  rw [if_pos (isActive_iff.2 hl)] at htaken
  obtain ⟨hport, hothers, hframe⟩ := reportAll_modPort s h (takeCredit hdr.toNat data.toNat)
  exact ⟨_, htaken, hport, hothers, hframe⟩

/-- Settles O36: by whether a notice is outstanding. -/
theorem noticeAckReturnsUnlistedBits : Obligations.NoticeAckReturnsUnlistedBits := by
  intro h bits s hs hl
  have htaken := takes_next hs fun s =>
    if (s.port h).isActive then reportAll (s.modPort h (acknowledge bits)) else s
  rw [if_pos (isActive_iff.2 hl)] at htaken
  obtain ⟨hport, hothers, hframe⟩ := reportAll_modPort s h (acknowledge bits)
  refine ⟨fun sn hsn => ?_, fun hsn => ?_, fun b => raiseNotice_acknowledge b bits _⟩
  · rw [acknowledge_eq, hsn, Option.getD_some] at hport
    refine ⟨_, _, htaken, hport, rfl, fun i => ?_, fun hdue => noticeDue_iff.2 ⟨rfl, hdue⟩, hothers, hframe⟩
    have hi : i.val < 6 := i.isLt
    simp [hi]
  · rw [acknowledge_of_none hsn] at hport
    refine ⟨_, htaken, fun g => ?_, hframe⟩
    by_cases hg : g = h
    · rw [hg, hport]
    · exact hothers g hg

/-- Settles O38: the order is that of the selection's rows; each start rewrites its port where the selection names it. -/
theorem outboundOrderAndStarts : Obligations.OutboundOrderAndStarts := by
  refine ⟨fun p ht hl => ⟨?answer, ?grant, ?notice, ?response, fun k => selected_of_busy rfl⟩,
    fun h s hs => ⟨?answerStarts, ?grantStarts, ?noticeStarts⟩⟩
  case answer => exact selected_of_answer ht (by rw [hl]; rfl)
  case grant =>
    intro ha hg
    rw [selected_of_active ht hl ha, if_pos (grantPending_iff.2 hg)]
  case notice =>
    intro ha hh hd hn hc
    rw [selected_of_active ht hl ha, grantPending_eq_false.2 ⟨hh, hd⟩, if_neg Bool.false_ne_true, if_pos ⟨hn, hc⟩]
  case response =>
    intro i r ha hh hd hn hq hr
    have hnot : ¬ (p.noticeDue = true ∧ 1 ≤ p.respHdr) := by
      rintro ⟨h1, h2⟩
      rcases hn with hn | hn
      · rw [h1] at hn; cases hn
      · omega
    rw [selected_of_active ht hl ha, grantPending_eq_false.2 ⟨hh, hd⟩, if_neg Bool.false_ne_true, if_neg hnot, hq,
      Option.bind_some, ← creditsFor_iff hr]
    by_cases hc : p.creditsFor i = true <;> simp [hc]
  case answerStarts =>
    intro a hsel ha
    obtain ⟨hport, hothers, hframe⟩ := reportAll_modPort s h (startIf .answer startAnswer)
    refine ⟨_, takes_next hs fun s => reportAll (s.modPort h (startIf .answer startAnswer)), ?_, hothers, hframe⟩
    rw [hport, startIf, if_pos hsel, startAnswer, ha]
  case grantStarts =>
    intro hsel
    obtain ⟨hport, hothers, hframe⟩ := reportAll_modPort s h (startIf .grant startGrant)
    refine ⟨_, takes_next hs fun s => reportAll (s.modPort h (startIf .grant startGrant)), ?_, hothers, hframe⟩
    rw [hport, startIf, if_pos hsel, startGrant]
  case noticeStarts =>
    intro hsel
    obtain ⟨hport, hothers, hframe⟩ := reportAll_modPort s h (startIf .notice startNotice)
    refine ⟨_, takes_next hs fun s => reportAll (s.modPort h (startIf .notice startNotice)), ?_,
      respHdr_of_selected_notice hsel, hothers, hframe⟩
    rw [hport, startIf, if_pos hsel]
    rfl

end Sys2Proof.Proofs
end

section
/-! SUPPORT. ATTACH (R119, R121, R134): what the handshake makes of its port and what it leaves of the rest, whether it stands
alone or follows the port reset of a retrain. -/

namespace Sys2Proof.Machine

/-! The checks of an ATTACH (R119) -/

theorem attachRefusal_of_accepted {e : Bool} {hdr data : Nat} (he : e = true) (h1 : 1 ≤ hdr) (h2 : hdr ≤ 64)
    (h3 : 8 ≤ data) (h4 : data ≤ 1024) : attachRefusal e hdr data = none := by
  simp [attachRefusal, he, h1, h2, h3, h4]

theorem attachRefusal_of_disabled {e : Bool} (he : e = false) (hdr data : Nat) :
    attachRefusal e hdr data = some .disabled := by
  simp [attachRefusal, he]

theorem attachRefusal_of_range {e : Bool} {hdr data : Nat} (he : e = true)
    (hr : ¬ (1 ≤ hdr ∧ hdr ≤ 64 ∧ 8 ≤ data ∧ data ≤ 1024)) : attachRefusal e hdr data = some .range := by
  simp only [attachRefusal, he, Bool.not_true, Bool.false_eq_true, if_false, if_neg hr]

/-! The handshake -/

section

variable {s : State} {h : Port} {hdr data : Nat} (mask : NoticeBits)

theorem attachHandshake_of_accepted (ha : attachRefusal (s.portPolicy h).enabled hdr data = none) :
    attachHandshake h mask hdr data s =
      raiseEvent (eventLinkUp h) (s.modPort h (openSession s.targetUp mask hdr data)) := by
  rw [attachHandshake, ha]

theorem attachHandshake_of_refused {c : NakCause} (ha : attachRefusal (s.portPolicy h).enabled hdr data = some c) :
    attachHandshake h mask hdr data s = s.modPort h fun p => { p with link := .waiting, answer := some (.nak c) } := by
  rw [attachHandshake, ha]

end

/-- What the reports leave of a state in which only ports and events have changed. -/
theorem reportAll_frame_of {s a : State} (hf : { a with ports := s.ports, events := s.events } = s) :
    { reportAll a with ports := s.ports, events := s.events } = s :=
  (congrArg (fun b : State => { b with ports := s.ports, events := s.events }) (reportAll_frame a) :).trans hf

/-- One port rewritten, an occurrence raised, and the reports after it. -/
theorem reportAll_raiseEvent_modPort (e : Nat) (s : State) (h : Port) (f : PortState → PortState) :
    (reportAll (raiseEvent e (s.modPort h f))).port h = report (f (s.port h)) ∧
      (∀ g, g ≠ h → (reportAll (raiseEvent e (s.modPort h f))).port g = report (s.port g)) ∧
      (reportAll (raiseEvent e (s.modPort h f))).events = { s.events with occ := s.events.occ ||| (1#16 <<< e) } ∧
      { reportAll (raiseEvent e (s.modPort h f)) with ports := s.ports, events := s.events } = s :=
  ⟨by rw [port_reportAll, raiseEvent_port, port_modPort_same],
    fun g hg => by rw [port_reportAll, raiseEvent_port, port_modPort_ne s f hg], reportAll_events _,
    reportAll_frame_of rfl⟩

/-- The handshake changes its port and the occurrences alone. -/
theorem attachHandshake_frame (h : Port) (mask : NoticeBits) (hdr data : Nat) (s : State) :
    { attachHandshake h mask hdr data s with ports := s.ports, events := s.events } = s := by
  unfold attachHandshake
  split <;> rfl

theorem attachHandshake_slots (h : Port) (mask : NoticeBits) (hdr data : Nat) (s : State) :
    ((attachHandshake h mask hdr data s).port h).slots = (s.port h).slots ∧
      ((attachHandshake h mask hdr data s).port h).respQ = (s.port h).respQ := by
  unfold attachHandshake
  split
  · rw [port_modPort_same]
    exact ⟨rfl, rfl⟩
  · rw [raiseEvent_port, port_modPort_same, openSession, cutOff_eq]
    exact ⟨rfl, rfl⟩

/-! ATTACH by the lane's state -/

section

variable {s : State} {h : Port} (mask : NoticeBits) (hdr data : Nat)

theorem takeAttach_of_closed (hl : (s.port h).link = .waiting ∨ (s.port h).link = .fenced) :
    takeAttach h mask hdr data s = attachHandshake h mask hdr data s := by
  rcases hl with hl | hl <;> simp [takeAttach, hl]

theorem takeAttach_of_active (hl : (s.port h).link = .active) :
    takeAttach h mask hdr data s = attachHandshake h mask hdr data (portResetTaken h .retrain s) := by
  simp [takeAttach, hl]

theorem takeAttach_of_silent (hw : (s.port h).link ≠ .waiting) (hf : (s.port h).link ≠ .fenced)
    (ha : (s.port h).link ≠ .active) : takeAttach h mask hdr data s = s := by
  unfold takeAttach
  split <;> simp_all

end

/-- What a port reset leaves beyond its port stands where only ports change and occurrences become pending. -/
theorem PortLeft.of_frame {h : Port} {s t u : State} (hl : PortLeft h s t)
    (hf : { u with ports := t.ports, events := t.events } = t)
    (ho : ∀ i : Nat, t.events.occ.getLsbD i = true → u.events.occ.getLsbD i = true) : PortLeft h s u := by
  have ⟨_, _, _, _, _, _, hdown, _⟩ := hl
  rw [← hf] at hl
  obtain ⟨htags, hretries, hclaims, hholder, hpointer, hburst, -, hrest⟩ := hl
  exact ⟨htags, hretries, hclaims, hholder, hpointer, hburst, ho _ hdown, hrest⟩

theorem LastLogged.of_log_eq {s t u : State} {e : LogEntry} (hl : LastLogged s t e) (hu : u.log = t.log) :
    LastLogged s u e := by
  unfold LastLogged at hl ⊢
  rwa [hu]

end Sys2Proof.Machine

namespace Sys2Proof.Proofs

open Sys2Proof.Machine

/-- Settles O33: by the lane's state and the checks of R119. -/
theorem attachOpensASession : Obligations.AttachOpensASession := by
  refine ⟨?opened, fun h mask hdr data s hs => ⟨?refused, ?discarded⟩⟩
  case opened =>
    intro h mask hdr data s hs hl he h1 h2 h3 h4
    refine ⟨_, _, takes_next hs fun s => reportAll (takeAttach h mask hdr.toNat data.toNat s), rfl, ?_⟩
    rw [takeAttach_of_closed mask _ _ hl,
      attachHandshake_of_accepted mask (attachRefusal_of_accepted he h1 h2 h3 h4)]
    obtain ⟨hport, hothers, hevents, hframe⟩ := reportAll_raiseEvent_modPort (eventLinkUp h) s h
      (openSession s.targetUp mask hdr.toNat data.toNat)
    refine ⟨?_, hothers, hevents, hframe⟩
    rw [hport, report_of_answer (by simp [openSession]) rfl, openSession, cutOff_eq, if_congr targetUp_iff rfl rfl]
    cases (s.port h).tx <;> rfl
  case refused =>
    intro c hl hwhy
    have hrefusal : attachRefusal (s.portPolicy h).enabled hdr.toNat data.toNat = some c := by
      rcases hwhy with ⟨he, rfl⟩ | ⟨he, rfl, hr⟩
      · exact attachRefusal_of_disabled he ..
      · exact attachRefusal_of_range he hr
    refine ⟨_, takes_next hs fun s => reportAll (takeAttach h mask hdr.toNat data.toNat s), ?_⟩
    rw [takeAttach_of_closed mask _ _ hl, attachHandshake_of_refused mask hrefusal]
    obtain ⟨hport, hothers, hframe⟩ :=
      reportAll_modPort s h fun p => { p with link := .waiting, answer := some (.nak c) }
    exact ⟨hport.trans (report_of_not_active rfl), hothers, hframe⟩
  case discarded =>
    intro hw hf ha
    refine ⟨_, takes_next hs fun s => reportAll (takeAttach h mask hdr.toNat data.toNat s), ?_⟩
    rw [takeAttach_of_silent mask _ _ hw hf ha]
    exact ⟨port_reportAll s, reportAll_frame s⟩

/-- Settles O34: a retrain is the port reset, whose marks the handshake and the reports keep, and the handshake of a lane that
the reset left WAITING. -/
theorem retrainEndsAndReopens : Obligations.RetrainEndsAndReopens := by
  intro h mask hdr data s hs hl
  have hexec := takes_next hs fun s => reportAll (takeAttach h mask hdr.toNat data.toNat s)
  have hleft := portResetTaken_left h .retrain s
  have hlogged := portResetTaken_lastLogged h .retrain s
  have hcleared := portResetTaken_cleared h .retrain s
  have hpolicy : (portResetTaken h .retrain s).portPolicy h = s.portPolicy h := by
    rw [State.portPolicy, portResetTaken_policy, State.portPolicy]
  rw [takeAttach_of_active mask _ _ hl] at hexec
  refine ⟨_, hexec, ?_⟩
  clear hexec
  generalize portResetTaken h .retrain s = r at *
  obtain ⟨hslots, hrespQ⟩ := hcleared.vacant
  obtain ⟨hkeptslots, hkeptq⟩ := attachHandshake_slots h mask hdr.toNat data.toNat r
  have hframe := attachHandshake_frame h mask hdr.toNat data.toNat r
  have hmarks := (globalsKept_attachHandshake h mask hdr.toNat data.toNat r).trans (globalsKept_reportAll _)
  refine ⟨hleft.of_frame (reportAll_frame_of hframe) hmarks.occ,
    hlogged.of_log_eq (congrArg State.log hframe :), fun i => ?_, ?_, ?accepted, ?disabled, ?range⟩
  · rw [port_reportAll, report_slot, slot_congr hkeptslots]
    exact hslots i
  · rw [port_reportAll, report_respQ, hkeptq, hrespQ]
  case accepted =>
    intro he h1 h2 h3 h4
    rw [attachHandshake_of_accepted mask (attachRefusal_of_accepted (hpolicy ▸ he) h1 h2 h3 h4), port_reportAll,
      raiseEvent_port, port_modPort_same, report_of_answer (by simp [openSession]) rfl, ← hcleared.session,
      ← hcleared.endCause]
    refine ⟨rfl, rfl, rfl, ?_⟩
    refine (getLsbD_occ_raiseEvent (eventLinkUp h) h.val _ (Nat.lt_trans h.isLt (by decide))).trans ?_
    simp [eventLinkUp]
  case disabled =>
    intro he
    rw [attachHandshake_of_refused mask (attachRefusal_of_disabled (hpolicy ▸ he) ..), port_reportAll, port_modPort_same,
      report_of_not_active rfl]
    exact ⟨rfl, hcleared.endCause, rfl⟩
  case range =>
    intro he hr
    rw [attachHandshake_of_refused mask (attachRefusal_of_range (hpolicy ▸ he) hr), port_reportAll, port_modPort_same,
      report_of_not_active rfl]
    exact ⟨rfl, hcleared.endCause, hcleared.session, rfl⟩

end Sys2Proof.Proofs
end

section
/-! SUPPORT. Requests that take no slot (R30, R31, R38, R116): each rewrites its port and appends one record, or does nothing. -/

namespace Sys2Proof.Machine

/-- One port rewritten, a record appended, and the reports after it. -/
theorem reportAll_appendLog_modPort (e : LogEntry) (s : State) (h : Port) (f : PortState → PortState) :
    (reportAll (appendLog e (s.modPort h f))).port h = report (f (s.port h)) ∧
      LastLogged s (reportAll (appendLog e (s.modPort h f))) e ∧
      (∀ g, g ≠ h → (reportAll (appendLog e (s.modPort h f))).port g = report (s.port g)) ∧
      { reportAll (appendLog e (s.modPort h f)) with ports := s.ports, log := s.log, events := s.events } = s := by
  refine ⟨?port, lastLogged_of_log (a := s.modPort h f) e rfl (reportAll_log _), fun g hg => ?others, ?frame⟩
  case port => rw [port_reportAll, appendLog_port, port_modPort_same]
  case others => rw [port_reportAll, appendLog_port, port_modPort_ne s f hg]
  case frame =>
    exact (congrArg (fun b : State => { b with ports := s.ports })
      (reportAll_logged_frame (appendLog_frame e (s.modPort h f))) :)

/-! Check 2 (R31) -/

theorem ofCode_of_four_le {c : BitVec 8} (hc : 4 ≤ c.toNat) : ReqKind.ofCode c = none := by
  have hne (n : BitVec 8) (hn : n.toNat < 4) : c ≠ n := by
    rintro rfl
    omega
  simp [ReqKind.ofCode, hne]

/-- The first condition of check 2 that fails, by the kind code, the length field and the data carried (R31, R165). -/
theorem wellFormedKind_of_malformed {kind : BitVec 8} {len : BitVec 16} {data : List Byte} {d : Nat}
    (hd : d = 1 ∧ 4 ≤ kind.toNat ∨
      d = 2 ∧ (kind = 0 ∧ data ≠ [] ∨ kind = 3 ∧ data ≠ [] ∨ (kind = 1 ∨ kind = 2) ∧ data.length ≠ len.toNat) ∨
      d = 3 ∧ kind = 3 ∧ data = [] ∧ len ≠ 0) :
    wellFormedKind kind len.toNat data.length = .inl d := by
  rcases hd with ⟨rfl, hk⟩ | ⟨rfl, ⟨rfl, hdata⟩ | ⟨rfl, hdata⟩ | ⟨rfl | rfl, hdata⟩⟩ | ⟨rfl, rfl, rfl, hlen⟩
  · simp [wellFormedKind, ofCode_of_four_le hk]
  · simp [wellFormedKind, ReqKind.ofCode, hdata]
  · simp [wellFormedKind, ReqKind.ofCode, hdata]
  · simp [wellFormedKind, ReqKind.ofCode, hdata]
  · simp [wellFormedKind, ReqKind.ofCode, hdata]
  · have hzero : len.toNat ≠ 0 := fun e => hlen (BitVec.eq_of_toNat_eq e)
    simp [wellFormedKind, ReqKind.ofCode, hzero]

/-! The three ways without a slot -/

section

variable {s : State} {h : Port} {kind : BitVec 8} {id : HostId} {cls : BitVec 2} {addr : BitVec 48} {len : BitVec 16}
  {data : List Byte}

theorem exec_request_of_not_active (hl : (s.port h).link ≠ .active) :
    exec (.request h kind id cls addr len data) s = .next s := by
  simp [exec, execRequest, isActive_eq_false.2 hl]

variable (hhold : s.hold = none)
include hhold

theorem exec_request_of_no_credit (hl : (s.port h).link = .active)
    (hc : (s.port h).reqHdr = 0 ∨ (s.port h).reqData < ceilBlocks data.length) :
    exec (.request h kind id cls addr len data) s = .next (reportAll (creditViolation h s)) := by
  have hcredit : creditCheck (s.port h) data.length = false := by
    rw [Bool.eq_false_iff, Ne, creditCheck_iff]
    omega
  simp [exec, execRequest, inHold_of_none hhold, isActive_iff.2 hl, hcredit]

theorem exec_request_of_malformed {i : Slot} {blocks : List StageBlock} {d : Nat}
    (ht : Taken (s.port h) data.length i blocks) (hd : wellFormedKind kind len.toNat data.length = .inl d) :
    exec (.request h kind id cls addr len data) s =
      .next (reportAll (malformedRequest h d blocks.length (s.modPort h (consume blocks data)))) := by
  rw [execRequest_of_taken hhold ht, intake, hd]

end

/-- Credits consumed and handed back, the port says so to its host (R31, R38, R128). -/
theorem raiseNotice_handedBack {p : PortState} (hl : p.link = .active) (bits : NoticeBits) (blocks : List StageBlock)
    (data : List Byte) :
    raiseNotice bits (giveBack 1 blocks.length (consume blocks data p)) =
      { giveBack 1 blocks.length (consume blocks data p) with noticePending := p.noticePending ||| bits } :=
  raiseNotice_of_active (p := giveBack 1 blocks.length (consume blocks data p)) bits hl

/-- The staging blocks that a REQUEST takes where enough are free (R28). -/
theorem Taken.of_free {p : PortState} {n : Nat} {i : Slot} (hl : p.link = .active) (hhdr : 1 ≤ p.reqHdr)
    (hdata : ceilBlocks n ≤ p.reqData) (hslot : p.vacantSlot = some i) (hfree : ceilBlocks n ≤ p.freeStaging.length) :
    Taken p n i (p.freeStaging.take (ceilBlocks n)) :=
  ⟨isActive_iff.2 hl, hhdr, hdata, hslot, rfl, List.length_take_of_le hfree⟩

end Sys2Proof.Machine

namespace Sys2Proof.Proofs

open Sys2Proof.Machine

/-- Settles O44: by the check that fails first; each refusal rewrites its port and appends its record. -/
theorem requestTakesNoSlot : Obligations.RequestTakesNoSlot := by
  refine ⟨fun h kind id cls addr len data s hs => ⟨exec_request_of_not_active, ?uncredited, ?malformed⟩, ?dropped⟩
  case uncredited =>
    intro hl hc
    obtain ⟨hport, hlogged, hothers, hframe⟩ := reportAll_appendLog_modPort
      { kind := .creditViolation, port := some h, session := some (s.port h).session,
        detail := some (if (s.port h).reqHdr = 0 then 1 else 2) } s h (raiseNotice noticeCreditViolation)
    rw [raiseNotice_of_active _ hl] at hport
    exact ⟨_, exec_request_of_no_credit hs hl hc, hport, hlogged, hothers, hframe⟩
  case malformed =>
    intro d i hl hhdr hdata hslot hfree hd
    have ht := Taken.of_free hl hhdr hdata hslot hfree
    have hexec := exec_request_of_malformed (id := id) (cls := cls) (addr := addr) hs ht
      (wellFormedKind_of_malformed hd)
    rw [malformedRequest, modPort_modPort_same, port_modPort_same] at hexec
    obtain ⟨hport, hlogged, hothers, hframe⟩ := reportAll_appendLog_modPort
      { kind := .malformedRequest, port := some h, session := some (s.port h).session, detail := some d } s h
      fun p => raiseNotice noticeMalformedRequest (giveBack 1 _ (consume _ data p))
    rw [raiseNotice_handedBack hl] at hport
    refine ⟨_, _, hexec, hport, rfl, rfl, rfl, rfl, ?_, rfl, ?_, hlogged, hothers, hframe⟩
    · exact congrArg ((s.port h).reqData - ·) ht.length
    · exact congrArg ((s.port h).retData + ·) ht.length
  case dropped =>
    intro h id cls addr len data i st s hs hl hhdr hdata hslot hfree hlen ha
    have ht := Taken.of_free hl hhdr hdata hslot hfree
    have hexec := exec_request_of_fits (id := id) (cls := cls) (addr := addr) hs ht (kind := 2) (k := .post) rfl hlen nofun
    rw [admitRequest_drop rfl ((accessCheck_modPort ..).trans ha), dropAtIntake, modPort_modPort_same, port_modPort_same]
      at hexec
    obtain ⟨hport, hlogged, hothers, hframe⟩ := reportAll_appendLog_modPort
      { kind := .postedRejected, port := some h, session := some (s.port h).session, cls := some cls,
        length := some len.toNat, address := some (.host addr), detail := some st.code } s h
      fun p => { raiseNotice noticePostedRejected (giveBack 1 _ (consume _ data p)) with fenceFault := true }
    rw [raiseNotice_handedBack hl] at hport
    refine ⟨_, _, hexec, hport, rfl, rfl, rfl, rfl, rfl, rfl, ?_, hlogged, hothers, hframe⟩
    exact congrArg ((s.port h).retData + ·) ht.length

end Sys2Proof.Proofs
end

/-! Proofs about sessions, port reset and stall supervision (07): what every step keeps of a port's session, the PORT_RESET
command, and the stall expiry. -/

section
/-! SUPPORT. What of a port its session rests on (R133, R134, R136, R140) and its response credits (R124), and which of the
port's operations keep the two. -/

namespace Sys2Proof.Machine

/-! What the two rest on -/

/-- The response credits of one port lie within its declared capacities (R124); `ResponseCreditsFit` says it of all. -/
abbrev PortState.creditsFit (p : PortState) : Prop := p.respHdr ≤ p.capHdr ∧ p.respData ≤ p.capData

/-- What of a port its session and its response credits rest on; `SessionKept.of_part` ties it to them. -/
structure SessionPart where
  active     : Bool
  endCause   : EndCause
  session    : Nat
  stallMode  : StallMode
  stallCount : Nat
  capHdr     : Nat
  capData    : Nat
  respHdr    : Nat
  respData   : Nat

/-- The session part of a port, read off its fields. -/
def PortState.sessionPart (p : PortState) : SessionPart :=
  ⟨p.isActive, p.endCause, p.session, p.stallMode, p.stallCount, p.capHdr, p.capData, p.respHdr, p.respData⟩

/-- From `p` to `q` a sound session stays sound, and response credits within the capacities stay within them. -/
structure SessionKept (p q : PortState) : Prop where
  sound : p.sessionSound → q.sessionSound
  credits : p.creditsFit → q.creditsFit

theorem SessionKept.refl (p : PortState) : SessionKept p p := ⟨id, id⟩

theorem SessionKept.trans {p q r : PortState} (h1 : SessionKept p q) (h2 : SessionKept q r) : SessionKept p r :=
  ⟨h2.sound ∘ h1.sound, h2.credits ∘ h1.credits⟩

/-- An operation that leaves the session part keeps the session. -/
theorem SessionKept.of_part {p q : PortState} (h : q.sessionPart = p.sessionPart) : SessionKept p q := by
  simp only [PortState.sessionPart, SessionPart.mk.injEq] at h
  obtain ⟨hactive, hcause, hsession, hmode, hcount, hcapHdr, hcapData, hrespHdr, hrespData⟩ := h
  refine ⟨fun hs => ?_, fun hc => ?_⟩
  · simpa only [PortState.sessionSound, hactive, hcause, hsession, hmode, hcount] using hs
  · simpa only [PortState.creditsFit, hcapHdr, hcapData, hrespHdr, hrespData] using hc

/-! Operations that leave the session part -/

theorem sessionPart_of_intake {p q : PortState} (h : IntakeOnly p q) : q.sessionPart = p.sessionPart :=
  (congrArg PortState.sessionPart h :)

theorem sessionPart_fenceTest (p : PortState) : (fenceTest p).sessionPart = p.sessionPart :=
  sessionPart_of_intake (intakeOnly_fenceTest p)

theorem sessionPart_enterReady (i : Slot) (st : HostStatus) (p : PortState) :
    (enterReady i st p).sessionPart = p.sessionPart :=
  sessionPart_of_intake (intakeOnly_enterReady i st p)

theorem sessionPart_raiseNotice (bits : NoticeBits) (p : PortState) : (raiseNotice bits p).sessionPart = p.sessionPart :=
  (congrArg PortState.sessionPart (raiseNotice_frame bits p).1 :)

theorem sessionPart_droppedPort (i : Slot) (p : PortState) : (droppedPort i p).sessionPart = p.sessionPart :=
  (sessionPart_raiseNotice noticePostedRejected (vacate i p)).trans (sessionPart_of_intake (intakeOnly_vacate i p))

theorem sessionPart_grantSlot (x : Head) (tag : Option Tag) (blocks : List Block) (p : PortState) :
    (grantSlot x tag blocks p).sessionPart = p.sessionPart := by
  unfold grantSlot
  split
  · exact sessionPart_of_intake (intakeOnly_vacate ..)
  · rfl

theorem sessionPart_cutOff (f : CutForm) (p : PortState) : (cutOff f p).sessionPart = p.sessionPart := by
  rw [cutOff_eq]
  rfl

theorem sessionPart_acknowledge (bits : NoticeBits) (p : PortState) :
    (acknowledge bits p).sessionPart = p.sessionPart := by
  unfold acknowledge
  split <;> rfl

theorem sessionPart_startAnswer (p : PortState) : (startAnswer p).sessionPart = p.sessionPart := by
  unfold startAnswer
  split <;> rfl

theorem sessionPart_endResponse (p : PortState) : (endResponse p).sessionPart = p.sessionPart := by
  unfold endResponse
  split
  · exact (sessionPart_of_intake (intakeOnly_vacate ..)).trans rfl
  · rfl

theorem sessionPart_endGrant (p : PortState) : (endGrant p).sessionPart = p.sessionPart := by
  unfold endGrant
  split <;> rfl

theorem sessionPart_endOther (p : PortState) : (endOther p).sessionPart = p.sessionPart := by
  unfold endOther
  split <;> rfl

/-! A lane without a session goes to another state without one -/

theorem sessionPart_of_closed {p q : PortState} (hp : p.isActive = false)
    (h : { q with link := p.link }.sessionPart = p.sessionPart) (hq : q.link ≠ .active) :
    q.sessionPart = p.sessionPart := by
  have hactive : q.isActive = p.isActive := hp ▸ isActive_eq_false.2 hq
  simp only [PortState.sessionPart, SessionPart.mk.injEq] at h ⊢
  exact ⟨hactive, h.2⟩

theorem sessionPart_enterDown {p : PortState} (hp : p.isActive = false) : (enterDown p).sessionPart = p.sessionPart :=
  sessionPart_of_closed hp rfl (enterDown_link p)

theorem sessionPart_enterHoldoff {p : PortState} (hp : p.isActive = false) (now : Tick) :
    (enterHoldoff now p).sessionPart = p.sessionPart := by
  refine sessionPart_of_closed hp ?_ (by simp [enterHoldoff])
  rw [enterHoldoff, cutOff_eq]
  rfl

theorem sessionPart_carrierLost {p : PortState} (hp : p.isActive = false) :
    (enterDown (cutOff .closed p)).sessionPart = p.sessionPart :=
  (sessionPart_enterDown ((isActive_cutOff .closed p).trans hp)).trans (sessionPart_cutOff .closed p)

theorem sessionPart_detectCarrier (p : PortState) : (detectCarrier p).sessionPart = p.sessionPart := by
  by_cases h : p.link = .down
  · exact sessionPart_of_closed (by simp [PortState.isActive, h]) rfl (by simp [detectCarrier, h])
  · simp [detectCarrier, h, PortState.sessionPart, PortState.isActive]

/-! Sessions that open and end -/

theorem nextSession_range {n : Nat} (h : n ≤ 255) : 1 ≤ nextSession n ∧ nextSession n ≤ 255 := by
  unfold nextSession
  split <;> omega

/-- An accepted ATTACH opens a session with the next number, no end cause and a full count of response credits (R134). -/
theorem sessionKept_openSession (up : Bool) (mask : NoticeBits) (hdr data : Nat) (p : PortState) :
    SessionKept p (openSession up mask hdr data p) := by
  refine ⟨fun ⟨_, hmax, _⟩ => ?_, fun _ => ⟨Nat.le_refl _, Nat.le_refl _⟩⟩
  obtain ⟨hpos, hle⟩ := nextSession_range hmax
  exact ⟨⟨fun _ => rfl, fun _ => rfl⟩, hle, fun _ => hpos, nofun, fun _ => rfl, Nat.zero_le _⟩

/-- A port reset ends a session with its cause, STOPPED and without credits; its number stands (R131, R133, R136). -/
theorem sessionKept_resetPort {c : EndCause} (hc : c ≠ .none) (now : Tick) (p : PortState) :
    SessionKept p (resetPort now c p) := by
  have hactive : (resetPort now c p).isActive = false := isActive_eq_false.2 (laneAfter_closed now c)
  have hnumber : (resetPort now c p).session = p.session := (resetPort_cleared now c p).session
  refine ⟨fun ⟨_, hmax, _⟩ => ?_, fun _ => ⟨Nat.zero_le _, Nat.zero_le _⟩⟩
  exact ⟨iff_of_false (by simp [hactive]) hc, hnumber ▸ hmax, by simp [hactive], fun _ => rfl, fun _ => rfl,
    Nat.zero_le _⟩

/-- A part reset leaves a port without a session, whatever it was (R132). -/
theorem sessionKept_freshPort (cut : Option (CutForm × HostPacket)) (p : PortState) :
    SessionKept p (freshPort cut p) := by
  have hactive : (freshPort cut p).isActive = false := by
    unfold freshPort
    cases p.carrier <;> rfl
  refine ⟨fun _ => ?_, fun _ => ⟨Nat.zero_le _, Nat.zero_le _⟩⟩
  exact ⟨iff_of_false (by simp [hactive]) nofun, Nat.zero_le _, by simp [hactive], fun _ => rfl, fun _ => rfl,
    Nat.zero_le _⟩

/-! The stall timer (R140 to R142) -/

/-- A change of the stall timer alone keeps the session where a port without one is left STOPPED, a STOPPED timer reads 0,
and the count stays in its range. -/
theorem sessionKept_stallTimer {p q : PortState}
    (h : { q with stallMode := p.stallMode, stallCount := p.stallCount }.sessionPart = p.sessionPart)
    (hstopped : p.sessionSound → (p.isActive = false → q.stallMode = .stopped) ∧
      (q.stallMode = .stopped → q.stallCount = 0) ∧ q.stallCount ≤ Config.stallCountMax) : SessionKept p q := by
  obtain ⟨hs, hc⟩ := SessionKept.of_part h
  refine ⟨fun hp => ?_, hc⟩
  obtain ⟨hcause, hmax, hpos, -⟩ := hs hp
  have hactive : q.isActive = p.isActive := congrArg SessionPart.active h
  exact ⟨hcause, hmax, hpos, hactive ▸ hstopped hp⟩

theorem sessionKept_report (p : PortState) : SessionKept p (report p) := by
  refine sessionKept_stallTimer (congrArg PortState.sessionPart (report_frame p)) fun ⟨_, _, _, hclosed, hzero, hmax⟩ => ?_
  unfold report
  split
  · exact ⟨hclosed, hzero, hmax⟩
  · rename_i hactive
    split
    · exact ⟨fun ha => absurd ha (by simpa using hactive), nofun, hmax⟩
    · split
      · exact ⟨hclosed, hzero, hmax⟩
      · split
        · exact ⟨fun _ => rfl, fun _ => rfl, Nat.zero_le _⟩
        · exact ⟨fun ha => absurd ha (by simpa using hactive), nofun, hmax⟩

/-- The stall count falls to 0 (R140, R142). -/
theorem sessionKept_of_count_zero {p q : PortState} (h : { q with stallCount := p.stallCount }.sessionPart = p.sessionPart)
    (hq : q.stallCount = 0) : SessionKept p q := by
  have hmode : q.stallMode = p.stallMode := congrArg SessionPart.stallMode h
  refine sessionKept_stallTimer (hmode ▸ h) fun ⟨_, _, _, hclosed, _⟩ => ?_
  exact ⟨hmode ▸ hclosed, fun _ => hq, hq ▸ Nat.zero_le _⟩

/-- A RUNNING timer counts up to the highest count and no further (R141). -/
theorem sessionKept_stallTick (w : Nat) (p : PortState) : SessionKept p (stallTick w p) := by
  unfold stallTick
  dsimp only
  split
  · rename_i hrunning
    refine sessionKept_stallTimer rfl fun ⟨_, _, _, hclosed, _⟩ => ⟨hclosed, fun hs => ?_, Nat.min_le_left ..⟩
    exact absurd (hrunning.symm.trans hs) nofun
  · exact .of_part rfl

/-! Response credits (R124, R125) -/

/-- Response credits are spent. -/
theorem sessionKept_spend (hdr data : Nat) (p : PortState) :
    SessionKept p { p with respHdr := p.respHdr - hdr, respData := p.respData - data } :=
  ⟨id, fun ⟨hh, hd⟩ => ⟨(Nat.sub_le ..).trans hh, (Nat.sub_le ..).trans hd⟩⟩

theorem sessionKept_takeCredit (hdr data : Nat) (p : PortState) : SessionKept p (takeCredit hdr data p) :=
  ⟨id, fun _ => ⟨Nat.min_le_left .., Nat.min_le_left ..⟩⟩

theorem sessionKept_startNotice (p : PortState) : SessionKept p (startNotice p) :=
  (sessionKept_spend 1 0 p).trans (sessionKept_of_count_zero rfl rfl)

theorem sessionKept_startResponse (buffer : Memory) (p : PortState) : SessionKept p (startResponse buffer p) := by
  unfold startResponse
  split
  · exact .refl p
  · split
    · exact .refl p
    · rename_i r _
      exact (sessionKept_spend 1 r.dataNeed p).trans (sessionKept_of_count_zero rfl rfl)

theorem sessionKept_startIf {o : Outbound} {f : PortState → PortState} (hf : ∀ p, SessionKept p (f p)) (p : PortState) :
    SessionKept p (startIf o f p) := by
  unfold startIf
  split
  · exact hf p
  · exact .refl p

end Sys2Proof.Machine
end

section
/-! SUPPORT. That every operation of the model keeps the ports' sessions, up to the step. -/

namespace Sys2Proof.Machine

/-! Operations on the state -/

/-- From `s` to `t` every port keeps its session. -/
structure SessionsKept (s t : State) : Prop where
  ports : ∀ h, SessionKept (s.port h) (t.port h)

theorem SessionsKept.refl (s : State) : SessionsKept s s := ⟨fun _ => .refl _⟩

theorem SessionsKept.trans {s t u : State} (h1 : SessionsKept s t) (h2 : SessionsKept t u) : SessionsKept s u :=
  ⟨fun h => (h1.ports h).trans (h2.ports h)⟩

theorem SessionsKept.of_ports {s t : State} (hports : t.ports = s.ports) : SessionsKept s t := by
  refine ⟨fun h => ?_⟩
  simp only [State.port, hports]
  exact .refl _

/-- Beside the ports, the tags, the arbiter and the target lane are written. -/
theorem SessionsKept.written {s t : State} (h : SessionsKept s t) (g : Vector (Option TagRec) 128) (a : Arbiter)
    (l : TargetLane) : SessionsKept s { t with tags := g, arb := a, target := l } :=
  ⟨h.ports⟩

theorem sessionsKept_modPort {s : State} {h : Port} {f : PortState → PortState}
    (hf : SessionKept (s.port h) (f (s.port h))) : SessionsKept s (s.modPort h f) := by
  refine ⟨fun g => ?_⟩
  rw [port_modPort]
  split
  · subst g
    exact hf
  · exact .refl _

/-- One port is rewritten outside its session part. -/
theorem sessionsKept_part {s : State} {h : Port} {f : PortState → PortState}
    (hf : (f (s.port h)).sessionPart = (s.port h).sessionPart) : SessionsKept s (s.modPort h f) :=
  sessionsKept_modPort (.of_part hf)

theorem sessionsKept_modPorts {s : State} {f : PortState → PortState} (hf : ∀ p, SessionKept p (f p)) :
    SessionsKept s (s.modPorts f) := ⟨fun h => by rw [port_modPorts]; exact hf _⟩

theorem sessionsKept_foldl {α : Type} {f : State → α → State} (hf : ∀ s a, SessionsKept s (f s a)) (l : List α)
    (s : State) : SessionsKept s (l.foldl f s) :=
  foldl_keeps (P := SessionsKept s) (fun a b h => h.trans (hf a b)) l (.refl s)

theorem sessionsKept_reportAll (s : State) : SessionsKept s (reportAll s) := sessionsKept_modPorts sessionKept_report

theorem sessionsKept_modTarget (s : State) (f : TargetLane → TargetLane) : SessionsKept s (s.modTarget f) :=
  .of_ports rfl

theorem sessionsKept_setResult (c : BitVec 8) (r : CmdResult) (s : State) : SessionsKept s (setResult c r s) :=
  .of_ports rfl

theorem sessionsKept_setTag (s : State) (t : Tag) (r : Option TagRec) : SessionsKept s (s.setTag t r) := .of_ports rfl

theorem sessionsKept_raiseEvent (e : Nat) (s : State) : SessionsKept s (raiseEvent e s) := .of_ports rfl

theorem sessionsKept_appendLog (e : LogEntry) (s : State) : SessionsKept s (appendLog e s) := .of_ports (by simp)

theorem sessionsKept_drainTest (s : State) : SessionsKept s (drainTest s) := .of_ports (by simp)

theorem sessionsKept_fenceTest (h : Port) (s : State) : SessionsKept s (s.modPort h fenceTest) :=
  sessionsKept_part (sessionPart_fenceTest _)

theorem sessionsKept_raiseNotice (h : Port) (bits : NoticeBits) (s : State) :
    SessionsKept s (s.modPort h (raiseNotice bits)) :=
  sessionsKept_part (sessionPart_raiseNotice ..)

theorem sessionsKept_raiseNotices (bits : NoticeBits) (s : State) : SessionsKept s (s.modPorts (raiseNotice bits)) :=
  sessionsKept_modPorts fun p => .of_part (sessionPart_raiseNotice bits p)

theorem sessionsKept_retireAll (o : SubOutcome) (es : List (Port × Slot × Nat × Tag)) (s : State) :
    SessionsKept s (retireAll o es s) :=
  ⟨fun h => .of_part (sessionPart_of_intake (intakeOnly_retireAll o es s h))⟩

theorem sessionsKept_retireTag (r : TagRec) (o : SubOutcome) (s : State) : SessionsKept s (retireTag r o s) := by
  refine ⟨fun g => ?_⟩
  rw [retireTag, retire_port]
  split
  · subst g
    exact .of_part (sessionPart_of_intake (intakeOnly_retireAt ..))
  · exact .refl _

theorem sessionsKept_portResetTaken {c : EndCause} (hc : c ≠ .none) (h : Port) (s : State) :
    SessionsKept s (portResetTaken h c s) := by
  refine ⟨fun g => ?_⟩
  by_cases hg : g = h
  · subst hg
    rw [portResetTaken_port_same]
    exact sessionKept_resetPort hc ..
  · rw [portResetTaken_port_ne c s hg]
    exact .refl _

/-! Evaluations and grants -/

theorem Evaluated.sessionsKept {s e : State} (h : Evaluated s e) : SessionsKept s e :=
  ⟨fun g => .of_part (sessionPart_of_intake (h.ports g).intake)⟩

theorem sessionsKept_grantWith (h : Port) (x : Head) (tag : Option Tag) (s : State) :
    SessionsKept s (grantWith h x tag s) := by
  have htag : SessionsKept s (tagTaken h x tag s) := .of_ports (congrArg State.ports (tagTaken_frame h x tag s) :)
  have hslot : SessionsKept (tagTaken h x tag s) ((tagTaken h x tag s).modPort h fun p =>
      fenceTest (grantSlot x tag ((freeBlocks s).take x.record.blockNeed) p)) :=
    sessionsKept_part ((sessionPart_fenceTest _).trans (sessionPart_grantSlot ..))
  have hgranted : SessionsKept s (granted h x tag s) := (htag.trans hslot).written ..
  rw [grantWith_eq]
  exact hgranted.trans (sessionsKept_drainTest _)

theorem sessionsKept_issueGrantStep (s : State) : SessionsKept s (issueGrantStep s) := by
  have h1 := (evaluated_evaluate s).sessionsKept
  unfold issueGrantStep
  dsimp only
  split
  · exact h1
  · split
    · exact h1.trans (sessionsKept_grantWith ..)
    · exact h1

theorem sessionsKept_retryGrantStep (s : State) : SessionsKept s (retryGrantStep s) := by
  have h1 := (evaluated_evaluate s).sessionsKept
  unfold retryGrantStep
  dsimp only
  split
  · exact (h1.trans (sessionsKept_setTag ..)).written ..
  · exact h1

theorem sessionsKept_atOpportunity {f : State → State} (hf : ∀ a, SessionsKept a (f a)) (s : State) :
    SessionsKept s (atOpportunity f s) :=
  atOpportunity_keeps (P := SessionsKept s) (fun a ha => ha.trans (hf a)) (.refl s)

/-! The target lane -/

theorem sessionsKept_dropPost (h : Port) (i : Slot) (s : State) : SessionsKept s (dropPost h i s) := by
  unfold dropPost
  split
  · exact .refl s
  · exact (sessionsKept_appendLog ..).trans (sessionsKept_part (sessionPart_droppedPort i _))

theorem sessionsKept_failRecord (h : Port) (i : Slot) (s : State) : SessionsKept s (failRecord h i s) := by
  have hready : SessionsKept s (s.modPort h (enterReady i .unavailable)) :=
    sessionsKept_part (sessionPart_enterReady ..)
  unfold failRecord
  split
  · exact .refl s
  · split
    · split
      · exact hready.written ..
      · exact hready
      · exact sessionsKept_dropPost ..
      · exact .refl s
    · exact .refl s

theorem sessionsKept_failPorts (s : State) : SessionsKept s (failPorts s) := by
  refine sessionsKept_foldl (fun a h => ?_) _ s
  split
  · exact sessionsKept_foldl (fun b i => (sessionsKept_failRecord h i b).trans (sessionsKept_fenceTest h _)) _ a
  · exact .refl a

theorem sessionsKept_releaseAll (s : State) : SessionsKept s (releaseAll s) := by
  have h := sessionsKept_retireAll .linkDown (liveEntries s) s
  unfold releaseAll
  dsimp only
  split
  · exact h.written ..
  · exact h.trans (.of_ports rfl)

theorem sessionsKept_targetLoss (c : DownCause) (s : State) : SessionsKept s (targetLoss c s) := by
  unfold targetLoss
  exact ((((sessionsKept_modTarget ..).trans (sessionsKept_releaseAll _)).trans (sessionsKept_failPorts _)).trans
    (sessionsKept_raiseNotices ..)).trans (sessionsKept_appendLog ..)

theorem sessionsKept_loseTarget (s : State) : SessionsKept s (loseTarget s) := by
  have h1 := sessionsKept_modTarget s fun l => { l with carrier := false }
  unfold loseTarget
  dsimp only
  split
  · exact h1.trans (sessionsKept_modTarget ..)
  · exact h1.trans (sessionsKept_targetLoss ..)
  · exact h1
  · exact h1

theorem sessionsKept_downWith (c : DownCause) (s : State) : SessionsKept s (downWith c s) := by
  unfold downWith
  split
  · exact sessionsKept_modTarget ..
  · exact sessionsKept_targetLoss c s
  · exact .refl s
  · exact .refl s

theorem sessionsKept_endStranded (m : Mrs) (h : Port) (i : Slot) (s : State) : SessionsKept s (endStranded m h i s) := by
  unfold endStranded
  split
  · exact .refl s
  · split
    · split
      · exact (sessionsKept_dropPost ..).trans (sessionsKept_fenceTest h _)
      · exact sessionsKept_part (sessionPart_of_intake
          (((intakeOnly_setSlot ..).trans (intakeOnly_readyTest ..)).trans (intakeOnly_fenceTest _)))
    · exact .refl s

theorem sessionsKept_bringUp (hdr data : Nat) (m : Mrs) (s : State) : SessionsKept s (bringUp hdr data m s) := by
  have hstranded (a : State) : SessionsKept a (endAllStranded m a) :=
    sessionsKept_foldl (fun b h => sessionsKept_foldl (fun c i => sessionsKept_endStranded m h i c) _ b) _ a
  unfold bringUp
  exact ((((sessionsKept_modTarget ..).trans (hstranded _)).trans (sessionsKept_raiseNotices ..)).trans
    (sessionsKept_modTarget ..)).trans (sessionsKept_drainTest _)

theorem sessionsKept_takeTrainAck (hdr data size : Nat) (s : State) : SessionsKept s (takeTrainAck hdr data size s) := by
  unfold takeTrainAck
  split
  · split
    · exact sessionsKept_bringUp ..
    · exact sessionsKept_modTarget ..
  · exact .refl s
  · exact .refl s
  · exact .refl s

theorem sessionsKept_takeTcredit (hdr data : Nat) (s : State) : SessionsKept s (takeTcredit hdr data s) := by
  unfold takeTcredit
  split
  · exact sessionsKept_modTarget ..
  · exact sessionsKept_targetLoss ..

theorem sessionsKept_detectTarget (s : State) : SessionsKept s (detectTarget s) := by
  unfold detectTarget
  dsimp only
  split <;> exact .of_ports rfl

theorem sessionsKept_takeTrainEnd (s : State) : SessionsKept s (takeTrainEnd s) := by
  unfold takeTrainEnd
  split
  · split
    · exact sessionsKept_modTarget ..
    · exact .refl s
  · exact .refl s

theorem sessionsKept_endTargetHoldoff (s : State) : SessionsKept s (endTargetHoldoff s) := by
  unfold endTargetHoldoff
  split
  · split
    · split <;> exact sessionsKept_modTarget ..
    · exact .refl s
  · exact .refl s

/-! Completion parts -/

theorem sessionsKept_lapse (t : Tag) (r : TagRec) (s : State) : SessionsKept s (lapse t r s) := by
  rw [lapse_eq]
  exact sessionsKept_setTag ..

theorem sessionsKept_acceptData (t : Tag) (r : TagRec) (d : Tick) (n : Nat) (s : State) :
    SessionsKept s (acceptData t r d n s) := by
  rw [acceptData_eq]
  exact sessionsKept_setTag ..

theorem sessionsKept_placeData (r : TagRec) (poisoned : Bool) (data : List Byte) (s : State) :
    SessionsKept s (placeData r poisoned data s) := by
  unfold placeData
  split
  · exact .refl s
  · extract_lets s1
    have h1 : SessionsKept s s1 := .of_ports rfl
    split
    · exact h1.trans (sessionsKept_part rfl)
    · exact h1

theorem sessionsKept_takeRetry (t : Tag) (r : TagRec) (d : Tick) (s : State) : SessionsKept s (takeRetry t r d s) := by
  unfold takeRetry
  split
  · exact sessionsKept_setTag ..
  · exact ((sessionsKept_setTag ..).trans (sessionsKept_appendLog ..)).trans (sessionsKept_retireTag ..)

theorem sessionsKept_livePart (t : Tag) (r : TagRec) (d : Tick) (q : Part) (s : State) :
    SessionsKept s (livePart t r d q s) := by
  unfold livePart
  split
  · exact ((sessionsKept_lapse ..).trans (sessionsKept_appendLog ..)).trans (sessionsKept_retireTag ..)
  · exact sessionsKept_takeRetry ..
  · exact (sessionsKept_setTag ..).trans (sessionsKept_retireTag ..)
  · rename_i poisoned _
    have haccept := (sessionsKept_placeData r poisoned q.data s).trans (sessionsKept_acceptData t r d q.data.length _)
    dsimp only
    split
    · exact haccept.trans (sessionsKept_retireTag ..)
    · exact haccept

theorem sessionsKept_orphanPart (t : Tag) (r : TagRec) (d : Tick) (q : Part) (s : State) :
    SessionsKept s (orphanPart t r d q s) := by
  unfold orphanPart
  split
  · exact (sessionsKept_lapse ..).trans (sessionsKept_appendLog ..)
  · exact sessionsKept_setTag ..
  · exact sessionsKept_setTag ..
  · exact sessionsKept_acceptData ..

theorem sessionsKept_takePart (t : Tag) (q : Part) (s : State) : SessionsKept s (takePart t q s) := by
  unfold takePart
  split
  · exact sessionsKept_appendLog ..
  · rename_i r _
    have hrun (d : Tick) : SessionsKept s (if r.orphaned then orphanPart t r d q s else livePart t r d q s) := by
      split
      · exact sessionsKept_orphanPart ..
      · exact sessionsKept_livePart ..
    split
    · exact sessionsKept_appendLog ..
    · exact sessionsKept_appendLog ..
    · exact hrun _
    · exact hrun _

/-! Host lanes and sessions -/

theorem sessionsKept_attachHandshake {s : State} {h : Port} (hp : (s.port h).isActive = false) (mask : NoticeBits)
    (hdr data : Nat) : SessionsKept s (attachHandshake h mask hdr data s) := by
  unfold attachHandshake
  split
  · exact sessionsKept_part (sessionPart_of_closed hp rfl nofun)
  · exact (sessionsKept_modPort (sessionKept_openSession ..)).trans (sessionsKept_raiseEvent ..)

theorem sessionsKept_takeAttach (h : Port) (mask : NoticeBits) (hdr data : Nat) (s : State) :
    SessionsKept s (takeAttach h mask hdr data s) := by
  unfold takeAttach
  split
  · exact sessionsKept_attachHandshake (isActive_of_waiting ‹_›) ..
  · exact sessionsKept_attachHandshake (isActive_of_fenced ‹_›) ..
  · obtain ⟨hwaiting, -⟩ := portResetTaken_cleared h .retrain s
    exact (sessionsKept_portResetTaken (by simp) h s).trans (sessionsKept_attachHandshake (isActive_of_waiting hwaiting) ..)
  · exact .refl s
  · exact .refl s

theorem sessionsKept_enterHoldoff {s : State} {h : Port} (hp : (s.port h).isActive = false) :
    SessionsKept s (s.modPort h (enterHoldoff s.timebase)) :=
  sessionsKept_part (sessionPart_enterHoldoff hp _)

theorem sessionsKept_portResetOnLane (h : Port) (s : State) : SessionsKept s (portResetOnLane h s) := by
  unfold portResetOnLane
  split
  · exact sessionsKept_portResetTaken (by simp) h s
  · exact sessionsKept_enterHoldoff (isActive_of_waiting ‹_›)
  · exact sessionsKept_enterHoldoff (isActive_of_fenced ‹_›)
  · exact .refl s
  · exact .refl s

theorem sessionsKept_disableLane (h : Port) (s : State) : SessionsKept s (disableLane h s) := by
  unfold disableLane
  split
  · exact sessionsKept_portResetTaken (by simp) h s
  · exact sessionsKept_enterHoldoff (isActive_of_fenced ‹_›)
  · exact .refl s
  · exact .refl s
  · exact .refl s

/-- A check failure by the lane's state (R117). -/
theorem sessionsKept_failCheck (h : Port) (s : State) : SessionsKept s (failCheck h s) := by
  by_cases ha : (s.port h).link = .active
  · rw [failCheck_of_active ha]
    exact sessionsKept_portResetTaken (by simp) h s
  by_cases hc : (s.port h).link = .waiting ∨ (s.port h).link = .fenced
  · rw [failCheck_of_closed hc]
    exact sessionsKept_enterHoldoff (isActive_eq_false.2 ha)
  · rw [failCheck_of_silent ha hc]
    exact .refl s

theorem sessionsKept_carrier (h : Port) (b : Bool) (s : State) :
    SessionsKept s (s.modPort h fun p => { p with carrier := b }) :=
  sessionsKept_part rfl

/-- A carrier loss by the lane's state (R117). -/
theorem sessionsKept_loseCarrier (h : Port) (s : State) : SessionsKept s (loseCarrier h s) := by
  by_cases ha : (s.port h).link = .active
  · rw [loseCarrier_of_active ha]
    exact (sessionsKept_carrier h false s).trans (sessionsKept_portResetTaken (by simp) ..)
  by_cases hc : (s.port h).link = .waiting ∨ (s.port h).link = .fenced
  · rw [loseCarrier_of_closed hc]
    exact sessionsKept_part
      (sessionPart_carrierLost (p := { s.port h with carrier := false }) (isActive_eq_false.2 ha))
  · rw [loseCarrier_of_silent ha hc]
    exact sessionsKept_carrier h false s

theorem sessionsKept_endHoldoff (h : Port) (s : State) : SessionsKept s (endHoldoff h s) := by
  by_cases hd : holdoffDue s.timebase (s.port h) = true
  · obtain ⟨e, hl, -⟩ := holdoffDue_eq_true.1 hd
    rw [endHoldoff_of_due hd]
    exact sessionsKept_part (sessionPart_enterDown (isActive_eq_false.2 (by simp [hl])))
  · rw [endHoldoff_of_not_due (Bool.eq_false_iff.2 hd)]
    exact .refl s

theorem sessionsKept_takeStallExpiry (h : Port) (s : State) : SessionsKept s (takeStallExpiry h s) := by
  unfold takeStallExpiry
  split
  · have hlogged (e : LogEntry) : SessionsKept s (raiseEvent (eventStall h) (appendLog e s)) :=
      (sessionsKept_appendLog ..).trans (sessionsKept_raiseEvent ..)
    dsimp only
    split
    · exact (hlogged _).trans (sessionsKept_modPort (sessionKept_of_count_zero rfl rfl))
    · exact (hlogged _).trans (sessionsKept_portResetTaken (by simp) ..)
    · exact (hlogged _).trans (sessionsKept_portResetTaken (by simp) ..)
  · exact .refl s

/-! Tags and time -/

theorem sessionsKept_expireTag (t : Tag) (s : State) : SessionsKept s (expireTag t s) := by
  unfold expireTag
  split
  · exact .refl s
  · dsimp only
    split
    · exact .refl s
    · exact .of_ports rfl
    · exact (sessionsKept_lapse ..).trans (sessionsKept_appendLog ..)
    · exact (sessionsKept_lapse ..).trans (sessionsKept_appendLog ..)

theorem sessionsKept_takeDeadlines (s : State) : SessionsKept s (takeDeadlines s) :=
  ((sessionsKept_foldl (fun a t => sessionsKept_expireTag t a) _ s).trans (sessionsKept_retireAll ..)).trans
    (sessionsKept_drainTest _)

theorem sessionsKept_takeBackoffEnds (s : State) : SessionsKept s (takeBackoffEnds s) := by
  refine sessionsKept_foldl (fun a t => ?_) _ s
  unfold endBackoff
  split
  · exact .refl a
  · split
    · exact .of_ports rfl
    · exact .refl a

theorem sessionsKept_takeQuarantineEnds (s : State) : SessionsKept s (takeQuarantineEnds s) :=
  sessionsKept_foldl (fun a t => sessionsKept_setTag a t none) _ s

theorem sessionsKept_takeDrainLimit (s : State) : SessionsKept s (takeDrainLimit s) := by
  unfold takeDrainLimit
  split
  · exact .refl s
  · split
    · exact .of_ports (by simp)
    · exact .refl s

theorem sessionsKept_closeTick (s : State) : SessionsKept s (closeTick s) :=
  ((((((((sessionsKept_takeDeadlines s).trans (sessionsKept_reportAll _)).trans (sessionsKept_takeBackoffEnds _)).trans
    (sessionsKept_takeQuarantineEnds _)).trans (sessionsKept_takeDrainLimit _)).trans
    (sessionsKept_foldl (fun a h => sessionsKept_takeStallExpiry h a) allPorts _)).trans
    (sessionsKept_foldl (fun a h => sessionsKept_endHoldoff h a) allPorts _)).trans
    (sessionsKept_endTargetHoldoff _)).trans (sessionsKept_takeTrainEnd _)

theorem sessionsKept_advance (s : State) : SessionsKept s (advance s) :=
  ⟨fun h => by rw [advance_port]; exact sessionKept_stallTick ..⟩

/-! Requests -/

theorem sessionsKept_rejectRequest (h : Port) (i : Slot) (r : ReqRec) (st : HostStatus) (s : State) :
    SessionsKept s (rejectRequest h i r st s) :=
  sessionsKept_part ((sessionPart_enterReady i st _).trans rfl)

theorem sessionsKept_dropAtIntake (h : Port) (r : ReqRec) (addr : BitVec 48) (st : HostStatus) (s : State) :
    SessionsKept s (dropAtIntake h r addr st s) :=
  (sessionsKept_part ((sessionPart_raiseNotice noticePostedRejected (giveBack 1 r.staging.length (s.port h))).trans
    rfl)).trans (sessionsKept_appendLog ..)

theorem sessionsKept_malformedRequest (h : Port) (d n : Nat) (s : State) : SessionsKept s (malformedRequest h d n s) :=
  (sessionsKept_part ((sessionPart_raiseNotice noticeMalformedRequest (giveBack 1 n (s.port h))).trans rfl)).trans
    (sessionsKept_appendLog ..)

theorem sessionsKept_admitRequest (h : Port) (i : Slot) (r : ReqRec) (id : HostId) (addr : BitVec 48) (s : State) :
    SessionsKept s (admitRequest h i r id addr s) := by
  unfold admitRequest
  dsimp only
  split
  · exact sessionsKept_rejectRequest ..
  · split
    · exact sessionsKept_part ((sessionPart_fenceTest _).trans rfl)
    · split
      · exact sessionsKept_part rfl
      · split
        · exact sessionsKept_dropAtIntake ..
        · exact sessionsKept_rejectRequest ..

theorem sessionsKept_intake (h : Port) (kind : BitVec 8) (id : HostId) (cls : BitVec 2) (addr : BitVec 48) (len : Nat)
    (data : List Byte) (i : Slot) (blocks : List StageBlock) (s : State) :
    SessionsKept s (intake h kind id cls addr len data i blocks s) := by
  have hconsumed : SessionsKept s (s.modPort h (consume blocks data)) := sessionsKept_part rfl
  unfold intake
  dsimp only
  split
  · exact hconsumed.trans (sessionsKept_malformedRequest ..)
  · exact hconsumed.trans (sessionsKept_admitRequest ..)

theorem sessionsKept_request {s t : State} {h : Port} {kind : BitVec 8} {id : HostId} {cls : BitVec 2}
    {addr : BitVec 48} {len : BitVec 16} {data : List Byte}
    (ht : exec (.request h kind id cls addr len data) s = .next t) : SessionsKept s t := by
  rcases execRequest_cases h kind id cls addr len data s with he | he | ⟨i, blocks, -, he⟩ | ⟨-, -, f, he⟩
  · rw [he] at ht
    cases ht
    exact .refl s
  · rw [he] at ht
    cases ht
    exact ((sessionsKept_raiseNotice ..).trans (sessionsKept_appendLog ..)).trans (sessionsKept_reportAll _)
  · rw [he] at ht
    cases ht
    exact (sessionsKept_intake ..).trans (sessionsKept_reportAll _)
  · rw [he] at ht
    cases ht

/-! Commands of the management port, and resets -/

theorem sessionsKept_startDrain (size : Mrs) (s : State) : SessionsKept s (startDrain size s) := by
  rw [startDrain_eq]
  exact SessionsKept.trans (t := drainStarted size s) (.of_ports rfl) (sessionsKept_drainTest _)

theorem sessionsKept_commandReshape (b : BitVec 16) (s : State) : SessionsKept s (commandReshape b s) := by
  unfold commandReshape
  split
  · exact sessionsKept_setResult ..
  · split
    · exact sessionsKept_setResult ..
    · exact (sessionsKept_startDrain ..).trans (sessionsKept_setResult ..)

theorem sessionsKept_commandPortReset (a : BitVec 8) (s : State) : SessionsKept s (commandPortReset a s) := by
  unfold commandPortReset
  split
  · exact sessionsKept_setResult ..
  · exact (sessionsKept_portResetOnLane ..).trans (sessionsKept_setResult ..)

theorem sessionsKept_commandTargetReset (s : State) : SessionsKept s (commandTargetReset s) :=
  (sessionsKept_downWith ..).trans (sessionsKept_setResult ..)

theorem sessionsKept_commandTableFetch (a : BitVec 8) (b : BitVec 16) (s : State) :
    SessionsKept s (commandTableFetch a b s) := by
  unfold commandTableFetch
  split <;> exact .of_ports rfl

theorem sessionsKept_noticeChange (h : Port) (b : Bool) (s : State) : SessionsKept s (noticeChange h b s) := by
  unfold noticeChange
  split
  · exact sessionsKept_raiseNotice ..
  · exact .refl s

theorem sessionsKept_commitTable {s t : State} {x : TableIndex} (ht : commitTable x s = some t) : SessionsKept s t := by
  cases x with
  | port h =>
    simp only [commitTable, commitPort] at ht
    split at ht
    · cases ht
    · rename_i p _
      split at ht
      · cases ht
        have h1 : SessionsKept s (setPortPolicy h p s) := .of_ports rfl
        refine SessionsKept.trans ?_ (sessionsKept_noticeChange ..)
        split
        · exact h1
        · exact h1.trans (sessionsKept_disableLane ..)
      · cases ht
  | window i =>
    simp only [commitTable, commitWindow] at ht
    split at ht
    · cases ht
      have h1 : SessionsKept s (setWindow i (stagedWindow s.mgmt.staging) s) := .of_ports rfl
      exact h1.trans (sessionsKept_noticeChange ..)
    · cases ht
  | global =>
    obtain ⟨g, -, rfl⟩ := Option.map_eq_some_iff.1 ht
    exact .of_ports rfl

theorem sessionsKept_commandTableCommit (a : BitVec 8) (b : BitVec 16) (s : State) :
    SessionsKept s (commandTableCommit a b s) := by
  unfold commandTableCommit
  split
  · exact sessionsKept_setResult ..
  · split
    · exact sessionsKept_setResult ..
    · exact (sessionsKept_commitTable ‹_›).trans (sessionsKept_setResult ..)

theorem sessionsKept_resetBlocks (c : ResetCause) (l : FaultLog) {f : PortState → PortState}
    (g : TargetLane → TargetLane) (s : State) (hf : ∀ p, SessionKept p (f p)) :
    SessionsKept s (resetBlocks c l f g s) :=
  ⟨fun h => by simpa [resetBlocks, State.port] using hf (s.port h)⟩

theorem sessionsKept_hardReset (c : ResetCause) (s : State) : SessionsKept s (hardReset c s) :=
  sessionsKept_resetBlocks _ _ _ s (sessionKept_freshPort none)

theorem sessionsKept_commandSoftReset (s : State) : SessionsKept s (commandSoftReset s) :=
  (sessionsKept_resetBlocks _ _ _ s fun _ => sessionKept_freshPort ..).trans (sessionsKept_setResult ..)

/-- What is being sent stops as a reset hold begins, and the sessions stand until its end (R189). -/
theorem sessionsKept_beginHold (c : HoldCause) (s : State) : SessionsKept s (beginHold c s) :=
  SessionsKept.trans (t := s.modPorts (cutOff .stopped))
    (sessionsKept_modPorts fun p => .of_part (sessionPart_cutOff .stopped p)) (.of_ports rfl)

theorem sessionsKept_takeCommandWord (w : Word) (s : State) : SessionsKept s (takeCommandWord w s) := by
  unfold takeCommandWord
  split
  · exact sessionsKept_setResult ..
  · exact sessionsKept_commandPortReset ..
  · exact (sessionsKept_commandTargetReset s).trans (sessionsKept_reportAll _)
  · exact sessionsKept_commandSoftReset s
  · exact sessionsKept_commandReshape ..
  · exact .of_ports rfl
  · exact .of_ports rfl
  · exact sessionsKept_commandTableFetch ..
  · exact (sessionsKept_commandTableCommit ..).trans (sessionsKept_reportAll _)

theorem sessionsKept_writeRegister (a : BitVec 16) (w : Word) (s : State) : SessionsKept s (writeRegister a w s) := by
  unfold writeRegister
  split
  · exact .of_ports rfl
  · split
    · exact .of_ports rfl
    · split
      · exact sessionsKept_takeCommandWord w s
      · unfold writeStaging
        split <;> exact .of_ports rfl

/-! The step -/

theorem takes_sessionsKept {s t : State} {f : State → State} (hf : ∀ a, SessionsKept a (f a))
    (ht : takes f s = .next t) : SessionsKept s t :=
  takes_keeps (P := SessionsKept s) (fun a ha => ha.trans (hf a)) (.refl s) ht

/-- An event taken, and the reports after it. -/
theorem takes_sessionsKept_reported {s t : State} {f : State → State} (hf : ∀ a, SessionsKept a (f a))
    (ht : takes (fun a => reportAll (f a)) s = .next t) : SessionsKept s t :=
  takes_sessionsKept (fun a => (hf a).trans (sessionsKept_reportAll _)) ht

/-- An event of one port, and the reports after it. -/
theorem takes_sessionKept {s t : State} {h : Port} (f : State → PortState → PortState)
    (hf : ∀ a p, SessionKept p (f a p)) (ht : takes (fun s => reportAll (s.modPort h (f s))) s = .next t) :
    SessionsKept s t :=
  takes_sessionsKept_reported (fun a => sessionsKept_modPort (hf a _)) ht

/-- An event taken under a condition. -/
theorem sessionsKept_when (c : State → Bool) {f : State → State} (hf : ∀ a, SessionsKept a (f a)) (s : State) :
    SessionsKept s (if c s then f s else s) := by
  split
  · exact hf s
  · exact .refl s

theorem sessionsKept_invalidCommand (w : Word) (s : State) :
    SessionsKept s (if commandInRange w then s else answerInvalid (commandCode w) s) := by
  split
  · exact .refl s
  · exact sessionsKept_setResult ..

/-- Every command keeps every port's session. -/
theorem exec_sessionsKept {c : Instr} {s t : State} (ht : exec c s = .next t) : SessionsKept s t := by
  cases c with
  | tickEvent => exact takes_sessionsKept (fun a => (sessionsKept_closeTick a).trans (sessionsKept_advance _)) ht
  | deadlineExpiry => exact takes_sessionsKept_reported sessionsKept_takeDeadlines ht
  | backoffEnd => exact takes_sessionsKept sessionsKept_takeBackoffEnds ht
  | quarantineEnd => exact takes_sessionsKept sessionsKept_takeQuarantineEnds ht
  | drainLimitExpiry => exact takes_sessionsKept sessionsKept_takeDrainLimit ht
  | drainComplete => exact takes_sessionsKept sessionsKept_drainTest ht
  | stallExpiry h => exact takes_sessionsKept (sessionsKept_takeStallExpiry h) ht
  | hostCarrierDetect h =>
    cases ht
    split
    · exact sessionsKept_carrier h true s
    · exact sessionsKept_part (sessionPart_detectCarrier _)
  | hostCarrierLoss h =>
    cases ht
    split
    · exact sessionsKept_carrier h false s
    · exact sessionsKept_loseCarrier h s
  | hostCheckFailure h => exact takes_sessionsKept (sessionsKept_failCheck h) ht
  | hostHoldoffEnd h => exact takes_sessionsKept (sessionsKept_endHoldoff h) ht
  | attach h mask hdr data =>
    exact takes_sessionsKept_reported (sessionsKept_takeAttach h mask hdr.toNat data.toNat) ht
  | request h kind id cls addr len data => exact sessionsKept_request ht
  | credit h hdr data =>
    exact takes_sessionsKept (sessionsKept_when (fun a => (a.port h).isActive) fun a =>
      (sessionsKept_modPort (sessionKept_takeCredit hdr.toNat data.toNat _)).trans (sessionsKept_reportAll _)) ht
  | noticeAck h bits =>
    exact takes_sessionsKept (sessionsKept_when (fun a => (a.port h).isActive) fun a =>
      (sessionsKept_part (sessionPart_acknowledge bits _)).trans (sessionsKept_reportAll _)) ht
  | hostUnusablePacket h bytes => exact takes_sessionsKept .refl ht
  | attachAnswerStart h =>
    exact takes_sessionKept (fun _ => startIf .answer startAnswer)
      (fun _ => sessionKept_startIf fun p => .of_part (sessionPart_startAnswer p)) ht
  | grantTransmissionStart h =>
    exact takes_sessionKept (fun _ => startIf .grant startGrant) (fun _ => sessionKept_startIf fun _ => .of_part rfl) ht
  | noticeTransmissionStart h =>
    exact takes_sessionKept (fun _ => startIf .notice startNotice)
      (fun _ => sessionKept_startIf sessionKept_startNotice) ht
  | responseTransmissionStart h =>
    exact takes_sessionKept (fun s => startIf .response (startResponse s.buffer))
      (fun s => sessionKept_startIf (sessionKept_startResponse s.buffer)) ht
  | responseTransmissionEnd h =>
    exact takes_sessionKept (fun _ => endResponse) (fun _ p => .of_part (sessionPart_endResponse p)) ht
  | grantTransmissionEnd h =>
    exact takes_sessionKept (fun _ => endGrant) (fun _ p => .of_part (sessionPart_endGrant p)) ht
  | hostTransmissionEnd h =>
    exact takes_sessionKept (fun _ => endOther) (fun _ p => .of_part (sessionPart_endOther p)) ht
  | targetCarrierDetect =>
    cases ht
    split
    · exact sessionsKept_modTarget ..
    · exact sessionsKept_detectTarget s
  | targetCarrierLoss =>
    cases ht
    split
    · exact sessionsKept_modTarget ..
    · exact (sessionsKept_loseTarget s).trans (sessionsKept_reportAll _)
  | targetCheckFailure => exact takes_sessionsKept_reported (sessionsKept_downWith .protocol) ht
  | trainAck hdr data size =>
    exact takes_sessionsKept_reported (sessionsKept_takeTrainAck hdr.toNat data.toNat size.toNat) ht
  | trainEndTickExpiry => exact takes_sessionsKept sessionsKept_takeTrainEnd ht
  | targetHoldoffEnd => exact takes_sessionsKept sessionsKept_endTargetHoldoff ht
  | tcpl tag status remaining data =>
    exact takes_sessionsKept (sessionsKept_when State.targetUp fun a =>
      ((sessionsKept_takePart tag ⟨status, remaining.toNat, data⟩ a).trans (sessionsKept_drainTest _)).trans
        (sessionsKept_reportAll _)) ht
  | tcredit hdr data =>
    exact takes_sessionsKept (sessionsKept_when State.targetUp fun a =>
      (sessionsKept_takeTcredit hdr.toNat data.toNat a).trans (sessionsKept_reportAll _)) ht
  | targetUnusablePacket bytes => exact takes_sessionsKept .refl ht
  | treqTransmissionEnd => exact takes_sessionsKept (fun a => sessionsKept_modTarget a endTreq) ht
  | issueGrant => exact takes_sessionsKept_reported (sessionsKept_atOpportunity sessionsKept_issueGrantStep) ht
  | retryGrant => exact takes_sessionsKept_reported (sessionsKept_atOpportunity sessionsKept_retryGrantStep) ht
  | claimEntry =>
    exact takes_sessionsKept_reported (sessionsKept_atOpportunity fun a =>
      ((evaluated_ceilingRetires a).trans (evaluated_enterClaims _)).sessionsKept) ht
  | dataCreditHold =>
    exact takes_sessionsKept_reported (sessionsKept_atOpportunity fun a => (evaluated_evaluate a).sessionsKept) ht
  | readCeilingRetire =>
    exact takes_sessionsKept_reported
      (sessionsKept_atOpportunity fun a => (evaluated_ceilingRetires a).sessionsKept) ht
  | fenceReady h => exact takes_sessionsKept_reported (sessionsKept_fenceTest h) ht
  | eventPendingWrite w => exact takes_sessionsKept (f := writePending w) (fun _ => .of_ports rfl) ht
  | eventEnableWrite w => exact takes_sessionsKept (f := writeEnable w) (fun _ => .of_ports rfl) ht
  | registerWrite addr w => exact takes_sessionsKept (sessionsKept_writeRegister addr w) ht
  | writeFrameDiscard => exact takes_sessionsKept (f := endFrame) (fun _ => .of_ports rfl) ht
  | invalidCommand w => exact takes_sessionsKept (sessionsKept_invalidCommand w) ht
  | portReset a => exact takes_sessionsKept (sessionsKept_commandPortReset a) ht
  | targetReset => exact takes_sessionsKept_reported sessionsKept_commandTargetReset ht
  | softReset => exact takes_sessionsKept sessionsKept_commandSoftReset ht
  | reshape b => exact takes_sessionsKept (sessionsKept_commandReshape b) ht
  | logPop => exact takes_sessionsKept (f := commandLogPop) (fun _ => .of_ports rfl) ht
  | logClear => exact takes_sessionsKept (f := commandLogClear) (fun _ => .of_ports rfl) ht
  | tableFetch a b => exact takes_sessionsKept (sessionsKept_commandTableFetch a b) ht
  | tableCommit a b => exact takes_sessionsKept_reported (sessionsKept_commandTableCommit a b) ht
  | powerOnReset =>
    cases ht
    split
    · exact .refl s
    · exact sessionsKept_hardReset .powerOn s
  | pinReset =>
    cases ht
    split
    · exact .refl s
    · exact sessionsKept_hardReset .pin s
  | resetHoldBegin c => exact takes_sessionsKept (sessionsKept_beginHold c) ht

/-- A step is a command of the queue's front, or idles (log 2). -/
theorem step_sessionsKept {s t : State} (ht : step s = .next t) : SessionsKept s t := by
  unfold step at ht
  split at ht
  · cases ht
    exact .refl s
  · rename_i rest _
    exact SessionsKept.trans (t := { s with pending := rest }) (.of_ports rfl) (exec_sessionsKept ht)

end Sys2Proof.Machine

namespace Sys2Proof.Proofs

open Sys2Proof.Machine

/-- Settles O7: every command keeps each port's session sound and its response credits within its capacities. -/
theorem stepKeepsSessionsSound : Obligations.StepKeepsSessionsSound := by
  intro s t ht
  have hkept := step_sessionsKept ht
  exact ⟨fun hs h => (hkept.ports h).sound (hs h), fun hc h => (hkept.ports h).credits (hc h)⟩

end Sys2Proof.Proofs
end

section
/-! SUPPORT. The PORT_RESET command by the lane's state (R138, R181). -/

namespace Sys2Proof.Machine

theorem portOfArg_ofNat (h : Port) : portOfArg (BitVec.ofNat 8 h.val) = some h := by
  have hval : (BitVec.ofNat 8 h.val).toNat = h.val := by
    rw [BitVec.toNat_ofNat]
    omega
  simp [portOfArg, hval, h.isLt]

theorem exec_portReset {s : State} (hs : s.hold = none) (h : Port) :
    exec (.portReset (BitVec.ofNat 8 h.val)) s = .next (setResult Command.portReset.code .done (portResetOnLane h s)) := by
  refine (takes_next hs (commandPortReset _)).trans (congrArg _ ?_)
  rw [commandPortReset, portOfArg_ofNat]

section

variable {s : State} {h : Port}

theorem portResetOnLane_of_active (hl : (s.port h).link = .active) :
    portResetOnLane h s = portResetTaken h .mgmtReset s := by
  simp [portResetOnLane, hl]

theorem portResetOnLane_of_closed (hl : (s.port h).link = .waiting ∨ (s.port h).link = .fenced) :
    portResetOnLane h s = s.modPort h (enterHoldoff s.timebase) := by
  rcases hl with hl | hl <;> simp [portResetOnLane, hl]

theorem portResetOnLane_of_silent (ha : (s.port h).link ≠ .active)
    (hc : ¬ ((s.port h).link = .waiting ∨ (s.port h).link = .fenced)) : portResetOnLane h s = s := by
  unfold portResetOnLane
  split <;> simp_all

end

/-- The management port is no part of what a port reset leaves. -/
theorem PortLeft.setResult {h : Port} {s t : State} (hl : PortLeft h s t) (c : BitVec 8) (r : CmdResult) :
    PortLeft h s (setResult c r t) := hl

end Sys2Proof.Machine

namespace Sys2Proof.Proofs

open Sys2Proof.Machine

/-- Settles O25: by the lane's state; an ACTIVE port is left as `portResetTaken_cleared` and `portResetTaken_left` say. -/
theorem portResetCommandByLaneState : Obligations.PortResetCommandByLaneState := by
  intro h s hs
  refine ⟨_, exec_portReset hs h, ?_⟩
  by_cases ha : (s.port h).link = .active
  · rw [portResetOnLane_of_active ha]
    have hmgmt := congrArg (fun m : Mgmt => { m with lastCommand := 1, result := .done, frame := .idle })
      (portResetTaken_mgmt h .mgmtReset s)
    exact ⟨hmgmt, fun g hg => portResetTaken_port_ne _ _ hg,
      fun _ => ⟨portResetTaken_cleared .., (portResetTaken_left ..).setResult ..⟩, fun hc => by simp [ha] at hc,
      fun hne => absurd ha hne⟩
  by_cases hc : (s.port h).link = .waiting ∨ (s.port h).link = .fenced
  · rw [portResetOnLane_of_closed hc]
    have hport : (setResult Command.portReset.code .done (s.modPort h (enterHoldoff s.timebase))).port h =
        enterHoldoff s.timebase (s.port h) := port_modPort_same ..
    rw [hport, enterHoldoff, cutOff_eq]
    exact ⟨rfl, fun g hg => port_modPort_ne _ _ hg, fun hl => absurd hl ha, fun _ => ⟨rfl, rfl, rfl, rfl, rfl⟩,
      fun _ hw hf => absurd hc (not_or.2 ⟨hw, hf⟩)⟩
  · rw [portResetOnLane_of_silent ha hc]
    exact ⟨rfl, fun _ _ => rfl, fun hl => absurd hl ha, fun hl => absurd hl hc, fun _ _ _ => rfl⟩

end Sys2Proof.Proofs
end

section
/-! SUPPORT. A stall expiry that is due (R141 to R144): the STALL_ACTION record and the STALL event, and what follows them. -/

namespace Sys2Proof.Machine

/-- The STALL_ACTION record of port `h` (R142, R165). -/
def stallActionEntry (h : Port) (s : State) : LogEntry :=
  { kind := .stallAction, port := some h, session := some (s.port h).session,
    detail := some (s.portPolicy h).stallAction.code }

/-- A stall expiry up to its stall action: STALL_ACTION is logged and STALL is pending (R142). -/
def stallNoted (h : Port) (s : State) : State := raiseEvent (eventStall h) (appendLog (stallActionEntry h s) s)

section

variable {s : State} {h : Port}

theorem takeStallExpiry_of_note (hd : stallExpiryDue s h = true) (ha : (s.portPolicy h).stallAction = .note) :
    takeStallExpiry h s = (stallNoted h s).modPort h fun p => { p with stallCount := 0, stallDue := false } := by
  simp [takeStallExpiry, hd, stallNoted, stallActionEntry, ha]

theorem takeStallExpiry_of_fence (hd : stallExpiryDue s h = true) (ha : (s.portPolicy h).stallAction = .fence) :
    takeStallExpiry h s = portResetTaken h .stallFence (stallNoted h s) := by
  simp [takeStallExpiry, hd, stallNoted, stallActionEntry, ha]

theorem takeStallExpiry_of_reset (hd : stallExpiryDue s h = true) (ha : (s.portPolicy h).stallAction = .reset) :
    takeStallExpiry h s = portResetTaken h .stallReset (stallNoted h s) := by
  simp [takeStallExpiry, hd, stallNoted, stallActionEntry, ha]

end

theorem stallNoted_frame (h : Port) (s : State) : { stallNoted h s with log := s.log, events := s.events } = s :=
  appendLog_frame (stallActionEntry h s) s

theorem stallNoted_port (h : Port) (s : State) (g : Port) : (stallNoted h s).port g = s.port g := appendLog_port ..

theorem stallNoted_timebase (h : Port) (s : State) : (stallNoted h s).timebase = s.timebase := appendLog_timebase ..

theorem stallNoted_log (h : Port) (s : State) : (stallNoted h s).log = (appendLog (stallActionEntry h s) s).log := rfl

theorem stallNoted_occ (h : Port) (s : State) : (stallNoted h s).events.occ.getLsbD (8 + h.val) = true := by
  refine (getLsbD_occ_raiseEvent (eventStall h) (8 + h.val) (appendLog _ s) ?_).trans ?_
  · unfold eventStall
    omega
  · simp [eventStall]

theorem stallNoted_lastLogged (h : Port) (s : State) : LastLogged s (stallNoted h s) (stallActionEntry h s) :=
  lastLogged_of_log _ rfl (stallNoted_log h s)

theorem stallNoted_logged (h : Port) (s : State) : LoggedInOrder s (stallNoted h s) [stallActionEntry h s] :=
  loggedInOrder_appendLog (stallActionEntry h s) s

theorem LoggedInOrder.of_log_eq {s t u : State} {es : List LogEntry} (h : LoggedInOrder s t es) (hu : u.log = t.log) :
    LoggedInOrder s u es := by
  unfold LoggedInOrder at h ⊢
  rwa [hu]

/-- What a port reset leaves beyond its port rests on no log and no occurrence of the state before it. -/
theorem PortLeft.of_logged {h : Port} {s a t : State} (hl : PortLeft h a t)
    (hf : { a with log := s.log, events := s.events } = s) : PortLeft h s t := by
  rw [← hf]
  exact hl

/-- The SESSION_END record of a port reset of `h` with cause `c` (R137, R165). -/
def sessionEndEntry (h : Port) (c : EndCause) (s : State) : LogEntry :=
  { kind := .sessionEnd, port := some h, session := some (s.port h).session, detail := some c.code }

/-- A port reset that follows the STALL_ACTION record leaves what one of the state before it leaves (R143, R144). -/
theorem portResetTaken_stallNoted (h : Port) (c : EndCause) (s : State) :
    (portResetTaken h c (stallNoted h s)).events.occ.getLsbD (8 + h.val) = true ∧
      (∀ g, g ≠ h → (portResetTaken h c (stallNoted h s)).port g = s.port g) ∧
      PortCleared (laneAfter s.timebase c) c (s.port h) ((portResetTaken h c (stallNoted h s)).port h) ∧
      PortLeft h s (portResetTaken h c (stallNoted h s)) ∧
      LastLogged s (portResetTaken h c (stallNoted h s)) (sessionEndEntry h c s) ∧
      LoggedInOrder s (portResetTaken h c (stallNoted h s)) [stallActionEntry h s, sessionEndEntry h c s] := by
  have hentry : sessionEndEntry h c (stallNoted h s) = sessionEndEntry h c s := by
    rw [sessionEndEntry, stallNoted_port, sessionEndEntry]
  refine ⟨?stall, fun g hg => ?others, ?cleared, ?left, ?last, ?logged⟩
  case stall => exact (globalsKept_portResetTaken h c _).occ _ (stallNoted_occ h s)
  case others => rw [portResetTaken_port_ne _ _ hg, stallNoted_port]
  case cleared =>
    have hcleared := portResetTaken_cleared h c (stallNoted h s)
    rwa [stallNoted_port, stallNoted_timebase] at hcleared
  case left => exact (portResetTaken_left h c (stallNoted h s)).of_logged (stallNoted_frame h s)
  case last => exact hentry ▸ lastLogged_of_log _ (stallNoted_timebase h s) (portResetTaken_log h c _)
  case logged =>
    refine (stallNoted_logged h s).trans ?_
    exact hentry ▸ (loggedInOrder_appendLog (sessionEndEntry h c (stallNoted h s)) _).of_log_eq (portResetTaken_log h c _)

end Sys2Proof.Machine

namespace Sys2Proof.Proofs

open Sys2Proof.Machine

/-- Settles O31: NOTE stops at the record and the event; FENCE and RESET take a port reset after them. -/
theorem stallExpiryByAction : Obligations.StallExpiryByAction := by
  intro h s hs hd
  refine ⟨_, takes_next hs (takeStallExpiry h), ?_⟩
  cases ha : (s.portPolicy h).stallAction with
  | note =>
    have hlast := stallNoted_lastLogged h s
    have hlogged := stallNoted_logged h s
    rw [stallActionEntry, ha] at hlast hlogged
    rw [takeStallExpiry_of_note hd ha]
    refine ⟨stallNoted_occ h s, fun g hg => (port_modPort_ne _ _ hg).trans (stallNoted_port h s g), fun _ => ?_, nofun, nofun⟩
    have hframe := congrArg (fun a : State => { a with ports := s.ports }) (stallNoted_frame h s)
    exact ⟨(port_modPort_same ..).trans (by rw [stallNoted_port]), hlast, hlogged, hframe⟩
  | fence =>
    obtain ⟨hstall, hothers, hcleared, hleft, hlast, hlogged⟩ := portResetTaken_stallNoted h .stallFence s
    rw [stallActionEntry, ha] at hlogged
    rw [takeStallExpiry_of_fence hd ha]
    exact ⟨hstall, hothers, nofun, fun _ => ⟨hcleared, hleft, hlast, hlogged⟩, nofun⟩
  | reset =>
    obtain ⟨hstall, hothers, hcleared, hleft, hlast, hlogged⟩ := portResetTaken_stallNoted h .stallReset s
    rw [stallActionEntry, ha] at hlogged
    rw [takeStallExpiry_of_reset hd ha]
    exact ⟨hstall, hothers, nofun, nofun, fun _ => ⟨hcleared, hleft, hlast, hlogged⟩⟩

end Sys2Proof.Proofs
end

/-! Proofs about the target lane (08): what every step keeps of it, the training, the entry to UP with the records that it
ends, and the target credits. -/

section
/-! SUPPORT. What the soundness of the target lane rests on (R152, R154 to R156), and the lane's own moves. -/

namespace Sys2Proof.Machine

/-! What it rests on -/

/-- From `s` to `t` a sound target lane stays sound. -/
structure LaneKept (s t : State) : Prop where
  sound : TargetSound s → TargetSound t

theorem LaneKept.refl (s : State) : LaneKept s s := ⟨id⟩

theorem LaneKept.trans {s t u : State} (h1 : LaneKept s t) (h2 : LaneKept t u) : LaneKept s u :=
  ⟨h2.sound ∘ h1.sound⟩

/-- The soundness rests on the lane, and on the configured MRS that the effective MRS is formed from (R155). -/
theorem LaneKept.of_eq {s t : State} (hlane : t.target = s.target) (hmrs : t.arb.configuredMrs = s.arb.configuredMrs) :
    LaneKept s t := by
  refine ⟨fun hs => ?_⟩
  simpa only [TargetSound, EffectiveMrsFormed, hlane, hmrs] using hs

theorem laneKept_foldl {α : Type} {f : State → α → State} (hf : ∀ s a, LaneKept s (f s a)) (l : List α) (s : State) :
    LaneKept s (l.foldl f s) :=
  foldl_keeps (P := LaneKept s) (fun a b h => h.trans (hf a b)) l (.refl s)

/-! The lane's moves -/

/-- Outside UP a sound lane holds no credit (R154). -/
theorem TargetLane.sound.empty {l : TargetLane} (h : l.sound) (hlink : l.link ≠ .up) :
    l.totalHdr = 0 ∧ l.totalData = 0 ∧ l.heldHdr = 0 ∧ l.heldData = 0 := by
  obtain ⟨hhdr, hdata, -, -, hzero, -⟩ := h
  obtain ⟨hth, htd⟩ := hzero hlink
  omega

theorem TargetLane.sound.of_empty {l : TargetLane} (hfits : l.txFits = true)
    (hempty : l.totalHdr = 0 ∧ l.totalData = 0 ∧ l.heldHdr = 0 ∧ l.heldData = 0) : l.sound := by
  obtain ⟨hth, htd, hhh, hhd⟩ := hempty
  exact ⟨by omega, by omega, by omega, by omega, fun _ => ⟨hth, htd⟩, hfits⟩

theorem TargetLane.txFits_of_idle {l : TargetLane} (h : l.tx = .idle) : l.txFits = true := by
  simp [TargetLane.txFits, h]

/-- What is being sent outside TRAINING and UP. -/
theorem TargetLane.sound.tx_idle {l : TargetLane} (h : l.sound) {e : Tick} (hlink : l.link = .holdoff e) :
    l.tx = .idle := by
  obtain ⟨-, -, -, -, -, hfits⟩ := h
  unfold TargetLane.txFits at hfits
  cases htx : l.tx <;> simp_all [TargetLink.isTraining]

/-- A packet cut off changes what is sent and what was cut off alone. -/
theorem cutTarget_frame (l : TargetLane) : { cutTarget l with tx := l.tx, lastCut := l.lastCut } = l := by
  unfold cutTarget
  split <;> rfl

theorem cutTarget_link (l : TargetLane) : (cutTarget l).link = l.link :=
  (congrArg TargetLane.link (cutTarget_frame l) :)
theorem cutTarget_mrs (l : TargetLane) : (cutTarget l).effMrs = l.effMrs ∧ (cutTarget l).maxReq = l.maxReq :=
  ⟨(congrArg TargetLane.effMrs (cutTarget_frame l) :), (congrArg TargetLane.maxReq (cutTarget_frame l) :)⟩

theorem TargetLane.sound.cutTarget {l : TargetLane} (h : l.sound) : (cutTarget l).sound := by
  obtain ⟨hhdr, hdata, hmaxHdr, hmaxData, hzero, -⟩ := h
  have hfits := TargetLane.txFits_of_idle (cutTarget_tx l)
  have hcounts : ((Machine.cutTarget l).totalHdr, (Machine.cutTarget l).totalData, (Machine.cutTarget l).heldHdr,
      (Machine.cutTarget l).heldData) = (l.totalHdr, l.totalData, l.heldHdr, l.heldData) :=
    (congrArg (fun x : TargetLane => (x.totalHdr, x.totalData, x.heldHdr, x.heldData)) (cutTarget_frame l) :)
  simp only [Prod.mk.injEq] at hcounts
  obtain ⟨hth, htd, hhh, hhd⟩ := hcounts
  exact ⟨by omega, by omega, by omega, by omega, fun hl => by rw [hth, htd]; exact hzero (cutTarget_link l ▸ hl), hfits⟩

/-- A move of the lane that leaves the two sizes and does not bring it UP. -/
theorem laneKept_modTarget {s : State} {f : TargetLane → TargetLane} (hf : s.target.sound → (f s.target).sound)
    (hmrs : (f s.target).effMrs = s.target.effMrs ∧ (f s.target).maxReq = s.target.maxReq)
    (hup : (f s.target).link = .up → s.target.link = .up) : LaneKept s (s.modTarget f) := by
  obtain ⟨he, hm⟩ := hmrs
  refine ⟨fun ⟨hsound, hformed, hmax⟩ => ⟨hf hsound, ?_, fun h => ?_⟩⟩
  · show (f s.target).effMrs = (f s.target).maxReq.map _
    rw [he, hm]
    exact hformed
  · show (f s.target).maxReq ≠ none
    rw [hm]
    exact hmax (hup h)

theorem laneKept_enterTargetHoldoff (now : Tick) (c : DownCause) (s : State) :
    LaneKept s (s.modTarget (enterTargetHoldoff now c)) :=
  laneKept_modTarget
    (fun _ => TargetLane.sound.of_empty (TargetLane.txFits_of_idle (cutTarget_tx s.target)) ⟨rfl, rfl, rfl, rfl⟩)
    (cutTarget_mrs s.target) nofun

/-- A lane outside UP sends a TRAIN (R151). -/
theorem laneKept_enterTraining {s : State} (hlink : s.target.link ≠ .up) (e : Tick) (b : Bool) :
    LaneKept s (s.modTarget fun l => { l with carrier := b, link := .training e, tx := .train }) :=
  laneKept_modTarget (fun h => TargetLane.sound.of_empty rfl (h.empty hlink)) ⟨rfl, rfl⟩ nofun

theorem laneKept_carrier (s : State) (b : Bool) : LaneKept s (s.modTarget fun l => { l with carrier := b }) :=
  laneKept_modTarget id ⟨rfl, rfl⟩ id

theorem laneKept_cutTarget (s : State) : LaneKept s (s.modTarget cutTarget) :=
  laneKept_modTarget (fun h => h.cutTarget) (cutTarget_mrs s.target) (cutTarget_link s.target ▸ id)

theorem laneKept_endTreq (s : State) : LaneKept s (s.modTarget endTreq) := by
  have hend : endTreq s.target = s.target ∨ endTreq s.target = { s.target with tx := .idle } := by
    unfold endTreq
    split
    · exact .inr rfl
    · exact .inl rfl
  refine laneKept_modTarget (fun h => ?_) ?_ ?_ <;> rcases hend with e | e <;> rw [e]
  · exact h
  · obtain ⟨hhdr, hdata, hmaxHdr, hmaxData, hzero, -⟩ := h
    exact ⟨hhdr, hdata, hmaxHdr, hmaxData, hzero, rfl⟩
  · exact ⟨rfl, rfl⟩
  · exact ⟨rfl, rfl⟩
  · exact id
  · exact id

/-- A TREQ starts in UP, and takes its credits from those held (R60, R156). -/
theorem laneKept_spend {s t : State} {data : Nat} {q : Treq} (hup : s.target.link = .up)
    (hlane : t.target = spend data q s.target) (hmrs : t.arb.configuredMrs = s.arb.configuredMrs) : LaneKept s t := by
  refine ⟨fun ⟨⟨hhdr, hdata, hmaxHdr, hmaxData, hzero, _⟩, hformed, hmax⟩ => ?_⟩
  simp only [TargetSound, EffectiveMrsFormed, hlane, hmrs]
  refine ⟨⟨?_, ?_, hmaxHdr, hmaxData, hzero, ?_⟩, hformed, hmax⟩
  · exact (Nat.sub_le ..).trans hhdr
  · exact (Nat.sub_le ..).trans hdata
  · exact beq_iff_eq.2 hup

/-! The drain, and what retires -/

theorem laneKept_completeDrain (m : Mrs) (s : State) : LaneKept s (completeDrain m s) :=
  ⟨fun ⟨hsound, _, hmax⟩ => ⟨hsound, rfl, hmax⟩⟩

theorem laneKept_drainTest (s : State) : LaneKept s (drainTest s) := by
  rcases drainTest_cases s with e | ⟨m, _, _, _, _, e⟩ <;> rw [e]
  · exact .refl s
  · exact laneKept_completeDrain m s

theorem laneKept_modPort (s : State) (h : Port) (f : PortState → PortState) : LaneKept s (s.modPort h f) :=
  .of_eq rfl rfl

theorem laneKept_reportAll (s : State) : LaneKept s (reportAll s) := .of_eq rfl rfl

theorem laneKept_appendLog (e : LogEntry) (s : State) : LaneKept s (appendLog e s) := .of_eq (by simp) (by simp)

theorem laneKept_raiseEvent (e : Nat) (s : State) : LaneKept s (raiseEvent e s) := .of_eq rfl rfl

theorem endPortHold_configuredMrs (h : Port) (a : Arbiter) : (endPortHold h a).configuredMrs = a.configuredMrs := by
  unfold endPortHold; split <;> rfl

theorem laneKept_retire (h : Port) (i : Slot) (n : Nat) (o : SubOutcome) (s : State) :
    LaneKept s (retire h i n o s) := by
  refine .of_eq (by simp) ?_
  rcases retire_arb h i n o s with e | e <;> rw [e]
  exact endPortHold_configuredMrs h s.arb

theorem laneKept_retireAll (o : SubOutcome) (es : List (Port × Slot × Nat × Tag)) (s : State) :
    LaneKept s (retireAll o es s) :=
  laneKept_foldl (fun a (e : Port × Slot × Nat × Tag) => laneKept_retire e.1 e.2.1 e.2.2.1 o a) es s

theorem laneKept_lapse (t : Tag) (r : TagRec) (s : State) : LaneKept s (lapse t r s) := by
  rw [lapse_eq]
  exact .of_eq rfl rfl

theorem laneKept_portResetTaken (h : Port) (c : EndCause) (s : State) : LaneKept s (portResetTaken h c s) := by
  have hcleared (a : State) (tags : Vector (Option TagRec) 128) (now : Tick) :
      LaneKept a (({ a with tags := tags, arb := arbAtPortReset a h } : State).modPort h (resetPort now c)) :=
    .of_eq rfl rfl
  exact (((laneKept_appendLog ..).trans (laneKept_raiseEvent ..)).trans (hcleared ..)).trans (laneKept_drainTest _)

/-! Evaluations and grants -/

theorem Evaluated.laneKept {s e : State} (h : Evaluated s e) : LaneKept s e :=
  .of_eq h.target (congrArg (fun a : State => a.arb.configuredMrs) h.frame :)

theorem advancePointer_configuredMrs (h : Port) (w : Nat) (a : Arbiter) :
    (advancePointer h w a).configuredMrs = a.configuredMrs := by
  simp only [advancePointer, apply_ite Arbiter.configuredMrs, ite_self]

theorem grantedArb_configuredMrs (h : Port) (w : Nat) (claim : Bool) (a : Arbiter) :
    (grantedArb h w claim a).configuredMrs = a.configuredMrs := by
  unfold grantedArb dropClaim
  split <;> simp [advancePointer_configuredMrs, endPortHold_configuredMrs]

theorem laneKept_grantWith {s : State} (hup : s.target.link = .up) (h : Port) (x : Head) (tag : Option Tag) :
    LaneKept s (grantWith h x tag s) := by
  rw [grantWith_eq]
  refine (laneKept_spend hup (granted_target h x tag s) ?_).trans (laneKept_drainTest _)
  rw [granted_arb, grantedArb_configuredMrs]

theorem laneKept_grantPort {s : State} (hup : s.target.link = .up) (h : Port) (x : Head) :
    LaneKept s (grantPort h x s) :=
  laneKept_grantWith hup ..

theorem laneKept_grantRetry {s : State} (hup : s.target.link = .up) (t : Tag) (r : TagRec) (d : Tick) :
    LaneKept s (grantRetry t r d s) := by
  unfold grantRetry
  exact laneKept_spend hup rfl rfl

theorem laneKept_issueGrantStep {s : State} (hup : s.target.link = .up) : LaneKept s (issueGrantStep s) := by
  have heval := evaluated_evaluate s
  unfold issueGrantStep
  dsimp only
  split
  · exact heval.laneKept
  · split
    · exact heval.laneKept.trans (laneKept_grantPort (heval.target.symm ▸ hup) ..)
    · exact heval.laneKept

theorem laneKept_retryGrantStep {s : State} (hup : s.target.link = .up) : LaneKept s (retryGrantStep s) := by
  have heval := evaluated_evaluate s
  unfold retryGrantStep
  dsimp only
  split
  · exact heval.laneKept.trans (laneKept_grantRetry (heval.target.symm ▸ hup) ..)
  · exact heval.laneKept

/-- An issue opportunity opens in UP alone (R49). -/
theorem laneKept_atOpportunity {f : State → State} (hf : ∀ a, a.target.link = .up → LaneKept a (f a)) (s : State) :
    LaneKept s (atOpportunity f s) := by
  unfold atOpportunity
  split
  · rename_i ho
    simp only [opportunityOpen, Bool.and_eq_true] at ho
    exact hf s (targetUp_iff.1 ho.1)
  · exact .refl s

end Sys2Proof.Machine
end

section
/-! SUPPORT. The records left in ISSUING at a TRAIN_ACK (step 3 of R152): what a turn at one record does, and what all
of them leave of the rest. -/

namespace Sys2Proof.Machine

/-! The order of the turns (R166) -/

/-- The occupied slots of all ports: the ports in ascending order, the slots of a port in acceptance order. -/
def recordOrder (s : State) : List (Port × Slot) :=
  allPorts.flatMap fun h => (s.port h).acceptanceOrder.map fun i => (h, i)

theorem mem_recordOrder {s : State} {h : Port} {i : Slot} :
    (h, i) ∈ recordOrder s ↔ ((s.port h).slot i).isSome = true := by
  simp [recordOrder, List.mem_finRange, mem_acceptanceOrder]

theorem recordOrder_nodup (s : State) : (recordOrder s).Nodup := by
  refine List.nodup_flatMap.2 ⟨fun h _ => ?_, (List.nodup_finRange 4).imp fun {h g} hne x hx hy => ?_⟩
  · exact (acceptanceOrder_nodup _).map fun _ _ e => (Prod.mk.inj e).2
  · obtain ⟨i, -, rfl⟩ := List.mem_map.1 hx
    obtain ⟨j, -, e⟩ := List.mem_map.1 hy
    exact hne (Prod.mk.inj e).1.symm

theorem endStranded_port_ne {h g : Port} (hg : g ≠ h) (m : Mrs) (i : Slot) (s : State) :
    (endStranded m h i s).port g = s.port g := by
  unfold endStranded dropPost
  split
  · rfl
  · split
    · split
      · rw [port_modPort_ne _ _ hg]
        split
        · rfl
        · rw [port_modPort_ne _ _ hg, appendLog_port]
      · exact port_modPort_ne _ _ hg
    · rfl

/-- The turns of a port leave the other ports, so that every turn's order can be read off the state before them all. -/
theorem endAllStranded_eq (m : Mrs) (s : State) :
    endAllStranded m s = (recordOrder s).foldl (fun a x => endStranded m x.1 x.2 a) s := by
  suffices hall : ∀ (l : List Port), l.Nodup → ∀ a : State,
      l.foldl (fun acc h => (acc.port h).acceptanceOrder.foldl (fun b i => endStranded m h i b) acc) a =
        (l.flatMap fun h => (a.port h).acceptanceOrder.map fun i => (h, i)).foldl
          (fun b x => endStranded m x.1 x.2 b) a from hall allPorts (List.nodup_finRange 4) s
  intro l
  induction l with
  | nil => exact fun _ _ => rfl
  | cons h l ih =>
    intro hl a
    obtain ⟨hh, hl⟩ := List.nodup_cons.1 hl
    rw [List.foldl_cons, ih hl, List.flatMap_cons, List.foldl_append, List.foldl_map]
    congr 1
    refine List.flatMap_congr fun g hg => ?_
    rw [foldl_keeps (P := fun b : State => b.port g = a.port g)
      (fun b i hb => (endStranded_port_ne (by rintro rfl; exact hh hg) m i b).trans hb) _ rfl]

/-! One turn -/

/-- The log record of a POST dropped after acceptance (R40, R165). -/
def dropEntry (h : Port) (session : Nat) (r : ReqRec) : LogEntry :=
  { kind := .postedRejected, port := some h, session := some session, cls := some r.cls, length := some r.length,
    address := some (.target (nextPieceAddr r)), detail := some HostStatus.unavailable.code }

/-- A port after the READ or WRITE of slot `i` has been ended at its next piece (R152). -/
def endedPort (map : ErrorMap) (i : Slot) (r : ReqRec) (p : PortState) : PortState :=
  fenceTest (readyTest map i (p.setSlot i (some (recordFailure .linkDown (nextOffset r) r))))

theorem isStranded_iff {m : Mrs} {r : ReqRec} :
    isStranded m r = true ↔ r.stage = .issuing ∧ ∃ c, r.cut = some c ∧ m.bytes < c.mrs.bytes := by
  unfold isStranded
  cases r.cut <;> simp

section

variable {m : Mrs} {h : Port} {i : Slot} {r : ReqRec} {s : State}

theorem stranded_or_not (m : Mrs) (h : Port) (i : Slot) (s : State) :
    (∀ r, (s.port h).slot i = some r → isStranded m r = false) ∨
      ∃ r, (s.port h).slot i = some r ∧ isStranded m r = true := by
  by_cases hs : ∃ r, (s.port h).slot i = some r ∧ isStranded m r = true
  · exact .inr hs
  · exact .inl fun r hr => Bool.eq_false_iff.2 fun h => hs ⟨r, hr, h⟩

theorem endStranded_of_not_stranded (hr : ∀ r, (s.port h).slot i = some r → isStranded m r = false) :
    endStranded m h i s = s := by
  unfold endStranded
  split
  · rfl
  · rename_i r hs
    rw [hr r hs, if_neg nofun]

theorem endStranded_of_post (hr : (s.port h).slot i = some r) (hs : isStranded m r = true) (hk : r.kind = .post) :
    endStranded m h i s =
      (appendLog (dropEntry h (s.port h).session r) s).modPort h fun p => fenceTest (droppedPort i p) := by
  simp only [endStranded, dropPost, hr, hs, hk, if_true, modPort_modPort_same]
  rfl

theorem endStranded_of_other (hr : (s.port h).slot i = some r) (hs : isStranded m r = true) (hk : r.kind ≠ .post) :
    endStranded m h i s = s.modPort h (endedPort (s.portPolicy h).errorMap i r) := by
  simp only [endStranded, hr, hs, hk, if_true, if_false]
  rfl

end

/-- The FENCE test brings no record into ISSUING. -/
theorem fenceTest_issuing {p : PortState} {i : Slot} {r : ReqRec} (hr : (fenceTest p).slot i = some r)
    (hs : r.stage = .issuing) : p.slot i = some r := by
  refine repeated_keeps (P := fun a : PortState => a.slot i = some r → p.slot i = some r) (fun a ha => ?_) 16 id hr
  rcases fenceStep_cases a with ⟨-, he⟩ | ⟨j, q, -, -, -, -, he⟩ <;> rw [he]
  · exact ha
  · intro hslot
    refine ha ((slot_setSlot_ne a _ ?_).symm.trans hslot)
    rintro rfl
    have hq := (slot_setSlot_same a i _).symm.trans hslot
    cases hq
    cases hs

/-- A failure leaves a record with a list in ISSUING only where it is no first failure, and then changes nothing. -/
theorem recordFailure_issuing {o : SubOutcome} {a : Nat} {r : ReqRec} {c : Cut} (hc : r.cut = some c)
    (hs : (recordFailure o a r).stage = .issuing) : recordFailure o a r = r := by
  unfold recordFailure at hs ⊢
  split
  · rfl
  · rename_i hf
    rw [if_neg hf] at hs
    split at hs
    · cases hs
    · rename_i hno
      exact absurd hc (hno c hs)

theorem afterReady_issuing {m : ErrorMap} {r : ReqRec} (hs : (afterReady m r).stage = .issuing) :
    afterReady m r = r := by
  unfold afterReady at hs ⊢
  split
  · rw [if_pos ‹_›] at hs
    cases hs
  · rfl

/-! What a turn leaves of its port -/

/-- From `p` to `q` records have ended, left in ISSUING with an MRS used above `m`, and FENCEs have been tested; every
other record stands, none has entered ISSUING, and the response queue and the pending notices have only grown. -/
structure StrandedEnded (m : Mrs) (p q : PortState) : Prop where
  link : q.link = p.link
  session : q.session = p.session
  notices : ∀ b, p.noticePending.getLsbD b = true → q.noticePending.getLsbD b = true
  respQ : p.respQ ⊆ q.respQ
  slots : ∀ i r, p.slot i = some r → r.kind ≠ .fence → isStranded m r = false → q.slot i = some r
  vacant : ∀ i, p.slot i = none → q.slot i = none
  issuing : ∀ i r, q.slot i = some r → r.stage = .issuing → p.slot i = some r

theorem StrandedEnded.refl (m : Mrs) (p : PortState) : StrandedEnded m p p :=
  ⟨rfl, rfl, fun _ h => h, fun _ h => h, fun _ _ h _ _ => h, fun _ h => h, fun _ _ h _ => h⟩

theorem StrandedEnded.trans {m : Mrs} {p q r : PortState} (h1 : StrandedEnded m p q) (h2 : StrandedEnded m q r) :
    StrandedEnded m p r :=
  ⟨h2.link.trans h1.link, h2.session.trans h1.session, fun b h => h2.notices b (h1.notices b h),
    List.Subset.trans h1.respQ h2.respQ, fun i x h hk hs => h2.slots i x (h1.slots i x h hk hs) hk hs,
    fun i h => h2.vacant i (h1.vacant i h), fun i x h hs => h1.issuing i x (h2.issuing i x h hs) hs⟩

theorem strandedEnded_fenceTest (m : Mrs) (p : PortState) : StrandedEnded m p (fenceTest p) := by
  have h := intakeOnly_fenceTest p
  obtain ⟨h1, h2⟩ := fenceTest_keeps p
  exact ⟨h.link, h.session, fun b hb => by rwa [h.noticePending], h2.subset, fun i r hr hk _ => h1 i r hr hk,
    fun _ => fenceTest_vacant, fun _ _ => fenceTest_issuing⟩

theorem droppedPort_fields (i : Slot) (p : PortState) :
    (droppedPort i p).link = p.link ∧ (droppedPort i p).session = p.session ∧ (droppedPort i p).respQ = p.respQ ∧
      ∀ b, p.noticePending.getLsbD b = true → (droppedPort i p).noticePending.getLsbD b = true := by
  obtain ⟨hframe, hnotices⟩ := raiseNotice_frame noticePostedRejected (vacate i p)
  have hv := intakeOnly_vacate i p
  refine ⟨(congrArg PortState.link hframe).trans hv.link, (congrArg PortState.session hframe).trans hv.session,
    (congrArg PortState.respQ hframe).trans ?_, fun b hb => hnotices b (by rwa [hv.noticePending])⟩
  unfold vacate
  split <;> rfl

theorem strandedEnded_droppedPort {m : Mrs} {i : Slot} {r : ReqRec} {p : PortState} (hr : p.slot i = some r)
    (hs : isStranded m r = true) : StrandedEnded m p (droppedPort i p) := by
  obtain ⟨hlink, hsession, hq, hnotices⟩ := droppedPort_fields i p
  refine ⟨hlink, hsession, hnotices, fun _ h => hq ▸ h, fun j x hx _ hxs => ?_, fun j hj => ?_, fun j x hx _ => ?_⟩
  · rw [droppedPort_slot hr, if_neg, hx]
    rintro rfl
    rw [hr] at hx
    cases hx
    rw [hs] at hxs
    cases hxs
  · rw [droppedPort_slot hr, hj, ite_self]
  · rw [droppedPort_slot hr] at hx
    split at hx
    · cases hx
    · exact hx

theorem endedPort_eq_fenceTest (map : ErrorMap) (i : Slot) (r : ReqRec) (p : PortState) :
    ∃ q, endedPort map i r p = fenceTest q ∧ IntakeOnly p q ∧ p.respQ <+: q.respQ ∧
      (∀ j, j ≠ i → q.slot j = p.slot j) ∧
      q.slot i = some (afterReady map (recordFailure .linkDown (nextOffset r) r)) ∧
      ((afterReady map (recordFailure .linkDown (nextOffset r) r)).stage = .ready → r.stage ≠ .ready →
        i ∈ q.respQ) := by
  have hresp := readyTest_respQ map i (p.setSlot i (some (recordFailure .linkDown (nextOffset r) r)))
  obtain ⟨hslot, hothers, hmem⟩ :=
    readyTest_spec map (slot_setSlot_same p i (some (recordFailure .linkDown (nextOffset r) r)))
  refine ⟨_, rfl, (intakeOnly_setSlot ..).trans (intakeOnly_readyTest ..), hresp,
    fun j hj => (hothers j hj).trans (slot_setSlot_ne _ _ hj), hslot, fun hready hr => ?_⟩
  unfold afterReady at hready
  split at hready
  · obtain ⟨hs, hall⟩ := ‹_ ∧ _›
    exact hmem hs hall
  · exact absurd (recordFailure_ready hready) hr

theorem strandedEnded_endedPort {m : Mrs} {i : Slot} {r : ReqRec} {p : PortState} (map : ErrorMap)
    (hr : p.slot i = some r) (hs : isStranded m r = true) : StrandedEnded m p (endedPort map i r p) := by
  obtain ⟨q, hq, hintake, hresp, hothers, hslot, -⟩ := endedPort_eq_fenceTest map i r p
  rw [hq]
  refine StrandedEnded.trans ?_ (strandedEnded_fenceTest m q)
  refine ⟨hintake.link, hintake.session, fun b hb => by rwa [hintake.noticePending], hresp.subset,
    fun j x hx _ hxs => ?_, fun j hj => ?_, fun j x hx hxs => ?_⟩
  · rw [hothers j, hx]
    rintro rfl
    rw [hr] at hx
    cases hx
    rw [hs] at hxs
    cases hxs
  · rw [hothers j, hj]
    rintro rfl
    rw [hr] at hj
    cases hj
  · by_cases hj : j = i
    · subst hj
      obtain ⟨-, c, hc, -⟩ := isStranded_iff.1 hs
      obtain rfl := Option.some.inj (hslot.symm.trans hx)
      have hfailed := afterReady_issuing hxs
      rw [hfailed] at hxs ⊢
      rw [recordFailure_issuing hc hxs, hr]
    · rw [← hothers j hj, hx]

/-! What the turns leave of the state -/

/-- An append that finds the list full raises LOG_OVERWRITE, and no other occurrence (R167). -/
theorem getLsbD_occ_appendLog_ne (e : LogEntry) (s : State) {b : Nat} (hb : b ≠ eventLogOverwrite) :
    (appendLog e s).events.occ.getLsbD b = s.events.occ.getLsbD b := by
  unfold appendLog
  dsimp only
  split
  · rfl
  · rw [getLsbD_occ_raiseEvent _ _ _ (by decide), decide_eq_false hb, Bool.or_false]

/-- From `s` to `t` the ports have changed as their ended records call for, with the log; of the occurrences at most
LOG_OVERWRITE has been raised. -/
structure StrandingDone (m : Mrs) (s t : State) : Prop where
  frame : { t with ports := s.ports, log := s.log, events := s.events } = s
  enable : t.events.enable = s.events.enable
  occ : ∀ b, b ≠ eventLogOverwrite → t.events.occ.getLsbD b = s.events.occ.getLsbD b
  ports : ∀ h, StrandedEnded m (s.port h) (t.port h)

theorem StrandingDone.refl (m : Mrs) (s : State) : StrandingDone m s s := ⟨rfl, rfl, fun _ _ => rfl, fun _ => .refl ..⟩

theorem StrandingDone.trans {m : Mrs} {s t u : State} (h1 : StrandingDone m s t) (h2 : StrandingDone m t u) :
    StrandingDone m s u :=
  ⟨(congrArg (fun a : State => { a with ports := s.ports, log := s.log, events := s.events }) h2.frame :).trans
      h1.frame, h2.enable.trans h1.enable, fun b hb => (h2.occ b hb).trans (h1.occ b hb),
    fun h => (h1.ports h).trans (h2.ports h)⟩

theorem strandedEnded_modPort {m : Mrs} {s : State} {h : Port} {f : PortState → PortState}
    (hf : StrandedEnded m (s.port h) (f (s.port h))) (g : Port) :
    StrandedEnded m (s.port g) ((s.modPort h f).port g) := by
  rw [port_modPort]
  split
  · subst g
    exact hf
  · exact .refl ..

theorem strandingDone_endStranded (m : Mrs) (h : Port) (i : Slot) (s : State) :
    StrandingDone m s (endStranded m h i s) := by
  rcases stranded_or_not m h i s with hn | ⟨r, hr, hs⟩
  · rw [endStranded_of_not_stranded hn]
    exact .refl m s
  · by_cases hk : r.kind = .post
    · rw [endStranded_of_post hr hs hk]
      have hlogged (e : LogEntry) : StrandingDone m s (appendLog e s) :=
        ⟨(congrArg (fun a : State => { a with ports := s.ports }) (appendLog_frame e s) :), appendLog_enable e s,
          fun b => getLsbD_occ_appendLog_ne e s, fun g => by rw [appendLog_port]; exact .refl ..⟩
      refine (hlogged _).trans ⟨rfl, rfl, fun _ _ => rfl, strandedEnded_modPort ?_⟩
      rw [appendLog_port]
      exact (strandedEnded_droppedPort hr hs).trans (strandedEnded_fenceTest ..)
    · rw [endStranded_of_other hr hs hk]
      exact ⟨rfl, rfl, fun _ _ => rfl, strandedEnded_modPort (strandedEnded_endedPort _ hr hs)⟩

theorem strandingDone_endAllStranded (m : Mrs) (s : State) : StrandingDone m s (endAllStranded m s) := by
  rw [endAllStranded_eq]
  exact foldl_keeps (P := StrandingDone m s) (fun a x ha => ha.trans (strandingDone_endStranded m x.1 x.2 a)) _
    (.refl m s)

theorem StrandingDone.policy {m : Mrs} {s t : State} (h : StrandingDone m s t) : t.policy = s.policy :=
  (congrArg State.policy h.frame :)
theorem StrandingDone.timebase {m : Mrs} {s t : State} (h : StrandingDone m s t) : t.timebase = s.timebase :=
  (congrArg State.timebase h.frame :)
theorem StrandingDone.target {m : Mrs} {s t : State} (h : StrandingDone m s t) : t.target = s.target :=
  (congrArg State.target h.frame :)
theorem StrandingDone.arb {m : Mrs} {s t : State} (h : StrandingDone m s t) : t.arb = s.arb :=
  (congrArg State.arb h.frame :)

/-- Where no record is in ISSUING, step 3 of R152 does nothing. -/
theorem endAllStranded_of_none {s : State} (hn : ∀ h i r, (s.port h).slot i = some r → r.stage ≠ .issuing) (m : Mrs) :
    endAllStranded m s = s := by
  rw [endAllStranded_eq]
  refine foldl_of_fixed _ fun x _ => endStranded_of_not_stranded fun r hr => ?_
  rw [Bool.eq_false_iff]
  exact fun hs => hn x.1 x.2 r hr (isStranded_iff.1 hs).1

/-! What the turns make of one record -/

/-- A turn leaves the record of every other slot, but for a FENCE. -/
theorem endStranded_slot_ne {g h : Port} {i j : Slot} {q : ReqRec} {s : State} (m : Mrs) (hne : (g, j) ≠ (h, i))
    (hq : (s.port h).slot i = some q) (hk : q.kind ≠ .fence) : ((endStranded m g j s).port h).slot i = some q := by
  by_cases hg : h = g
  · subst hg
    have hij : i ≠ j := fun e => hne (by rw [e])
    rcases stranded_or_not m h j s with hn | ⟨r, hr, hs⟩
    · rw [endStranded_of_not_stranded hn, hq]
    · by_cases hp : r.kind = .post
      · rw [endStranded_of_post hr hs hp, port_modPort_same, appendLog_port]
        exact (fenceTest_keeps _).1 i q (by rw [droppedPort_slot hr, if_neg hij, hq]) hk
      · obtain ⟨p, hp', -, -, hothers, -, -⟩ := endedPort_eq_fenceTest (s.portPolicy h).errorMap j r (s.port h)
        rw [endStranded_of_other hr hs hp, port_modPort_same, hp']
        exact (fenceTest_keeps p).1 i q ((hothers i hij).trans hq) hk
  · rw [endStranded_port_ne hg, hq]

/-- A record's own turn, followed to the end of step 3: it stands up to its turn; what holds after the turn is what
every later turn keeps. -/
theorem endAllStranded_visits {Q : State → Prop} {m : Mrs} {h : Port} {i : Slot} {q : ReqRec} {s : State}
    (hq : (s.port h).slot i = some q) (hk : q.kind ≠ .fence)
    (hturn : ∀ a, StrandingDone m s a → (a.port h).slot i = some q → Q (endStranded m h i a))
    (hlater : ∀ a x, x ≠ (h, i) → StrandingDone m s a → Q a → Q (endStranded m x.1 x.2 a)) :
    Q (endAllStranded m s) := by
  have hdone (x : Port × Slot) {a : State} (ha : StrandingDone m s a) : StrandingDone m s (endStranded m x.1 x.2 a) :=
    ha.trans (strandingDone_endStranded ..)
  have hmem : (h, i) ∈ recordOrder s := mem_recordOrder.2 (by simp [hq])
  rw [endAllStranded_eq]
  refine (foldl_visits (P := fun a => StrandingDone m s a ∧ (a.port h).slot i = some q)
    (Q := fun a => StrandingDone m s a ∧ Q a) (recordOrder_nodup s) hmem ?_ ?_ ?_ ⟨.refl m s, hq⟩).2
  · exact fun a x hx ⟨ha, hslot⟩ => ⟨hdone x ha, endStranded_slot_ne m hx hslot hk⟩
  · exact fun a ⟨ha, hslot⟩ => ⟨hdone (h, i) ha, hturn a ha hslot⟩
  · exact fun a x hx ⟨ha, hQ⟩ => ⟨hdone x ha, hlater a x hx ha hQ⟩

theorem nextOffset_of_cut {r : ReqRec} {c : Cut} {x : Sub} (hc : r.cut = some c) (hx : c.subs[c.next]? = some x) :
    nextOffset r = x.offset := by
  simp [nextOffset, hc, hx]

/-- A record in ISSUING whose issued pieces have retired is READY as it is ended at its next piece: the LINK_DOWN entry
of the error map, its staging freed (R87, R88, R90, R92). -/
theorem ended_ready (map : ErrorMap) {q : ReqRec} {c : Cut} (o : Nat) (hs : q.stage = .issuing) (hc : q.cut = some c)
    (hff : q.firstFailure = none) (hdone : ∀ k y, k < c.next → c.subs[k]? = some y → y.outcome ≠ none) :
    (afterReady map (recordFailure .linkDown o q)).stage = .ready ∧
      (afterReady map (recordFailure .linkDown o q)).firstFailure = some (.linkDown, o) ∧
      (afterReady map (recordFailure .linkDown o q)).status = some map.linkDown ∧
      (afterReady map (recordFailure .linkDown o q)).staging = [] := by
  obtain ⟨d, hd, hlen, hfail, hstage, -, hget⟩ := recordFailure_spec .linkDown o (.inr hs) hc
  have hall : (recordFailure .linkDown o q).allRetired = true := (allRetired_iff hd).2 fun k w hw => by
    obtain ⟨y, hy⟩ : ∃ y, c.subs[k]? = some y :=
      ⟨_, List.getElem?_eq_getElem (hlen ▸ (List.getElem?_eq_some_iff.1 hw).1)⟩
    rw [Option.some.inj (hw.symm.trans (hget k y hy))]
    by_cases hk : k < c.next
    · have hyn := hdone k y hk hy
      simp [hyn]
    · by_cases hyn : y.outcome = none <;> simp [hff, hs, Nat.le_of_not_lt hk, hyn]
  have hsettled := settledBy_afterReady (m := map) (o := .linkDown) (a := o) (by decide)
    (by rw [hfail, hff]; rfl) (hstage hff)
  have hcut := afterReady_cut map (recordFailure .linkDown o q)
  have hall' : (afterReady map (recordFailure .linkDown o q)).allRetired = true := by
    rw [ReqRec.allRetired, hcut]
    exact hall
  obtain ⟨hfailure, hcases⟩ := hsettled
  obtain ⟨hready, -, hstatus, hstaging⟩ := hcases.resolve_left fun h => Bool.false_ne_true (h.2.symm.trans hall')
  exact ⟨hready, hfailure, hstatus, hstaging⟩

/-- The READ or WRITE of slot `i` is READY with the LINK_DOWN entry, its first failure at offset `o`. -/
def EndedLinkDown (map : ErrorMap) (i : Slot) (o : Nat) (p : PortState) : Prop :=
  ∃ r, p.slot i = some r ∧ r.kind ≠ .fence ∧ r.stage = .ready ∧ r.firstFailure = some (.linkDown, o) ∧
    r.status = some map.linkDown ∧ r.staging = [] ∧ i ∈ p.respQ

theorem EndedLinkDown.keep {map : ErrorMap} {i : Slot} {o : Nat} {m : Mrs} {p q : PortState}
    (hp : EndedLinkDown map i o p) (h : StrandedEnded m p q) : EndedLinkDown map i o q := by
  obtain ⟨r, hr, hk, hs, hff, hst, hstg, hq⟩ := hp
  refine ⟨r, h.slots i r hr hk ?_, hk, hs, hff, hst, hstg, h.respQ hq⟩
  rw [Bool.eq_false_iff]
  intro hstr
  rw [(isStranded_iff.1 hstr).1] at hs
  cases hs

/-- A READ or WRITE left in ISSUING with too large an MRS used, its issued pieces retired, is READY after step 3. -/
theorem endAllStranded_ended {m : Mrs} {h : Port} {i : Slot} {q : ReqRec} {c : Cut} {x : Sub} {s : State}
    (hq : (s.port h).slot i = some q) (hk : q.kind = .read ∨ q.kind = .write) (hs : q.stage = .issuing)
    (hc : q.cut = some c) (hm : m.bytes < c.mrs.bytes) (hx : c.subs[c.next]? = some x) (hff : q.firstFailure = none)
    (hdone : ∀ k y, k < c.next → c.subs[k]? = some y → y.outcome ≠ none) :
    EndedLinkDown (s.portPolicy h).errorMap i x.offset ((endAllStranded m s).port h) := by
  have hkf : q.kind ≠ .fence := by rcases hk with e | e <;> simp [e]
  have hkp : q.kind ≠ .post := by rcases hk with e | e <;> simp [e]
  refine endAllStranded_visits (Q := fun a => EndedLinkDown (s.portPolicy h).errorMap i x.offset (a.port h)) hq hkf
    (fun a ha hslot => ?turn) (fun a y _ _ hQ => hQ.keep ((strandingDone_endStranded m y.1 y.2 a).ports h))
  rw [endStranded_of_other hslot (isStranded_iff.2 ⟨hs, c, hc, hm⟩) hkp, port_modPort_same,
    portPolicy_congr ha.policy]
  obtain ⟨p, hp, -, -, -, hrec, hmem⟩ := endedPort_eq_fenceTest (s.portPolicy h).errorMap i q (a.port h)
  rw [nextOffset_of_cut hc hx] at hrec hmem
  obtain ⟨hready, hfail, hstatus, hstaging⟩ := ended_ready (s.portPolicy h).errorMap x.offset hs hc hff hdone
  rw [hp]
  refine EndedLinkDown.keep (m := m) ⟨_, hrec, ?_, hready, hfail, hstatus, hstaging, hmem hready ?_⟩
    (strandedEnded_fenceTest m p)
  · rw [afterReady_kind, recordFailure_kind]
    exact hkf
  · simp [hs]

/-- The POST of slot `i` has been dropped: its slot is VACANT, and its host is told while its lane is ACTIVE. -/
structure DroppedPost (i : Slot) (p q : PortState) : Prop where
  vacant : q.slot i = none
  notice : p.link = .active → q.noticePending.getLsbD 2 = true

theorem DroppedPost.keep {i : Slot} {m : Mrs} {p q r : PortState} (hq : DroppedPost i p q) (h : StrandedEnded m q r) :
    DroppedPost i p r :=
  ⟨h.vacant i hq.vacant, fun hl => h.notices 2 (hq.notice hl)⟩

theorem droppedPost_droppedPort {i : Slot} {r : ReqRec} {p : PortState} (hr : p.slot i = some r) :
    DroppedPost i p (droppedPort i p) := by
  refine ⟨by rw [droppedPort_slot hr, if_pos rfl], fun hl => ?_⟩
  have hact : (vacate i p).link = .active := by rw [(intakeOnly_vacate i p).link, hl]
  simp [droppedPort, raiseNotice_of_active _ hact]

/-- A POST left in ISSUING with too large an MRS used is dropped in step 3 (R40, R152). -/
theorem endAllStranded_dropped {m : Mrs} {h : Port} {i : Slot} {q : ReqRec} {s : State}
    (hq : (s.port h).slot i = some q) (hk : q.kind = .post) (hs : isStranded m q = true) :
    DroppedPost i (s.port h) ((endAllStranded m s).port h) := by
  refine endAllStranded_visits (Q := fun a => DroppedPost i (s.port h) (a.port h)) hq (by simp [hk])
    (fun a ha hslot => ?turn) (fun a y _ _ hQ => hQ.keep ((strandingDone_endStranded m y.1 y.2 a).ports h))
  rw [endStranded_of_post hslot hs hk, port_modPort_same, appendLog_port]
  obtain ⟨hvacant, hnotice⟩ := (droppedPost_droppedPort hslot).keep (strandedEnded_fenceTest m _)
  exact ⟨hvacant, fun hl => hnotice ((ha.ports h).link.trans hl)⟩

/-- A turn at a slot without a POST in ISSUING logs nothing. -/
theorem endStranded_log {m : Mrs} {h : Port} {i : Slot} {s : State}
    (hn : ∀ r, (s.port h).slot i = some r → r.kind = .post → r.stage ≠ .issuing) :
    (endStranded m h i s).log = s.log := by
  rcases stranded_or_not m h i s with hs | ⟨r, hr, hs⟩
  · rw [endStranded_of_not_stranded hs]
  · rw [endStranded_of_other hr hs fun hk => hn r hr hk (isStranded_iff.1 hs).1]
    rfl

/-- The only POST in ISSUING, where it is dropped in step 3, has the last log record (R40, R165). -/
theorem endAllStranded_lastLogged {m : Mrs} {h : Port} {i : Slot} {q : ReqRec} {s : State}
    (hq : (s.port h).slot i = some q) (hk : q.kind = .post) (hs : isStranded m q = true)
    (honly : ∀ g j r, (s.port g).slot j = some r → r.kind = .post → r.stage = .issuing → g = h ∧ j = i) :
    LastLogged s (endAllStranded m s) (dropEntry h (s.port h).session q) := by
  refine endAllStranded_visits (Q := fun a => LastLogged s a (dropEntry h (s.port h).session q)) hq (by simp [hk])
    (fun a ha hslot => ?turn) (fun a y hy ha hQ => ?later)
  case turn =>
    rw [endStranded_of_post hslot hs hk, (ha.ports h).session]
    exact lastLogged_of_log _ ha.timebase rfl
  case later =>
    have hlog : (endStranded m y.1 y.2 a).log = a.log := endStranded_log fun r hr hkr hsr => by
      obtain ⟨hg, hj⟩ := honly y.1 y.2 r ((ha.ports y.1).issuing y.2 r hr hsr) hkr hsr
      exact hy (Prod.ext hg hj)
    simpa only [LastLogged, hlog] using hQ

/-! The entry to UP -/

/-- The state after steps 1 and 2 of R152. -/
def trained (hdr data : Nat) (m : Mrs) (s : State) : State :=
  s.modTarget (recordTraining hdr data m s.arb.configuredMrs)

/-- The notices and the last step of R152. -/
def enteredUp (s : State) : State :=
  (s.modPorts (raiseNotice noticeTargetUp)).modTarget fun l => { l with link := .up, tx := .idle }

theorem enteredUp_target (s : State) : (enteredUp s).target = { s.target with link := .up, tx := .idle } := rfl
theorem enteredUp_arb (s : State) : (enteredUp s).arb = s.arb := rfl
theorem enteredUp_log (s : State) : (enteredUp s).log = s.log := rfl
theorem enteredUp_events (s : State) : (enteredUp s).events = s.events := rfl
theorem enteredUp_port (s : State) (h : Port) : (enteredUp s).port h = raiseNotice noticeTargetUp (s.port h) :=
  port_modPorts s (raiseNotice noticeTargetUp) h
theorem enteredUp_frame (s : State) : { enteredUp s with target := s.target, ports := s.ports } = s := rfl

/-- The state after a TRAIN_ACK that passes, but for the drain test (R152). -/
def broughtUp (hdr data : Nat) (m : Mrs) (s : State) : State := enteredUp (endAllStranded m (trained hdr data m s))

theorem bringUp_eq (hdr data : Nat) (m : Mrs) (s : State) : bringUp hdr data m s = drainTest (broughtUp hdr data m s) :=
  rfl

section

variable (hdr data : Nat) (m : Mrs) (s : State)

theorem broughtUp_target : (broughtUp hdr data m s).target =
    { recordTraining hdr data m s.arb.configuredMrs s.target with link := .up, tx := .idle } := by
  rw [broughtUp, enteredUp_target, (strandingDone_endAllStranded m (trained hdr data m s)).target]
  rfl

theorem broughtUp_arb : (broughtUp hdr data m s).arb = s.arb := by
  rw [broughtUp, enteredUp_arb, (strandingDone_endAllStranded m (trained hdr data m s)).arb]
  rfl

theorem broughtUp_frame :
    { broughtUp hdr data m s with target := s.target, ports := s.ports, log := s.log, events := s.events } = s := by
  have hdone := (strandingDone_endAllStranded m (trained hdr data m s)).frame
  unfold broughtUp
  generalize endAllStranded m (trained hdr data m s) = u at hdone ⊢
  exact (congrArg (fun a : State => { a with target := s.target }) hdone :)

theorem broughtUp_port (h : Port) : (broughtUp hdr data m s).port h =
    raiseNotice noticeTargetUp ((endAllStranded m (trained hdr data m s)).port h) :=
  enteredUp_port ..

theorem broughtUp_log : (broughtUp hdr data m s).log = (endAllStranded m (trained hdr data m s)).log := enteredUp_log _

theorem broughtUp_occ {b : Nat} (hb : b ≠ eventLogOverwrite) :
    (broughtUp hdr data m s).events.occ.getLsbD b = s.events.occ.getLsbD b := by
  rw [broughtUp, enteredUp_events, (strandingDone_endAllStranded m (trained hdr data m s)).occ b hb]
  rfl

end

end Sys2Proof.Machine
end

section
/-! SUPPORT. That every operation of the model keeps the target lane sound, up to the step. -/

namespace Sys2Proof.Machine

/-! The target lane -/

theorem laneKept_dropPost (h : Port) (i : Slot) (s : State) : LaneKept s (dropPost h i s) := by
  unfold dropPost
  split
  · exact .refl s
  · exact (laneKept_appendLog _ s).trans (laneKept_modPort ..)

theorem laneKept_failRecord (h : Port) (i : Slot) (s : State) : LaneKept s (failRecord h i s) := by
  unfold failRecord
  split
  · exact .refl s
  · split
    · split
      · exact .of_eq rfl rfl
      · exact .of_eq rfl rfl
      · exact laneKept_dropPost h i s
      · exact .refl s
    · exact .refl s

theorem laneKept_failPorts (s : State) : LaneKept s (failPorts s) := by
  refine laneKept_foldl (fun a h => ?_) _ s
  split
  · exact laneKept_foldl (fun b i => (laneKept_failRecord h i b).trans (laneKept_modPort ..)) _ a
  · exact .refl a

theorem laneKept_releaseAll (s : State) : LaneKept s (releaseAll s) := by
  have hreleased (a : State) :
      LaneKept a { a with tags := Vector.replicate 128 none, arb := { a.arb with retryQ := [], dataHold := none } } :=
    .of_eq rfl rfl
  have hretired := (laneKept_retireAll .linkDown (liveEntries s) s).trans (hreleased _)
  unfold releaseAll
  dsimp only
  split
  · exact hretired
  · exact hretired.trans (laneKept_completeDrain ..)

theorem laneKept_targetLoss (c : DownCause) (s : State) : LaneKept s (targetLoss c s) := by
  have hnoticed (a : State) : LaneKept a (a.modPorts (raiseNotice noticeTargetDown)) := .of_eq rfl rfl
  unfold targetLoss
  exact ((((laneKept_enterTargetHoldoff ..).trans (laneKept_releaseAll _)).trans (laneKept_failPorts _)).trans
    (hnoticed _)).trans (laneKept_appendLog ..)

/-- A carrier loss in TRAINING cuts off what is being sent, and the lane is DOWN (R153). -/
theorem laneKept_trainingLost {s : State} {e : Tick} (hl : s.target.link = .training e) (c : DownCause) :
    LaneKept s (s.modTarget fun l => { cutTarget l with link := .down, lastDown := c }) := by
  refine laneKept_modTarget (fun h => ?_) (cutTarget_mrs s.target) nofun
  exact TargetLane.sound.of_empty (TargetLane.txFits_of_idle (cutTarget_tx s.target))
    (h.cutTarget.empty (by rw [cutTarget_link, hl]; nofun))

theorem laneKept_loseTarget (s : State) : LaneKept s (loseTarget s) := by
  have hlevel := laneKept_carrier s false
  unfold loseTarget
  dsimp only
  split
  · rename_i hl
    exact hlevel.trans (laneKept_trainingLost (s := s.modTarget fun l => { l with carrier := false }) hl _)
  · exact hlevel.trans (laneKept_targetLoss ..)
  · exact hlevel
  · exact hlevel

theorem laneKept_downWith (c : DownCause) (s : State) : LaneKept s (downWith c s) := by
  unfold downWith
  split
  · exact laneKept_enterTargetHoldoff ..
  · exact laneKept_targetLoss c s
  · exact .refl s
  · exact .refl s

/-- The totals that pass the checks of a TRAIN_ACK lie in the ranges of R152. -/
theorem trainAckSize_ranges {hdr data size : Nat} {m : Mrs} (h : trainAckSize hdr data size = some m) :
    hdr ≤ 64 ∧ data ≤ 256 := by
  unfold trainAckSize at h
  split at h
  · cases h
  · split at h
    · omega
    · cases h

/-- The entry to UP makes the lane sound from the totals and the target maximum alone (R152, R155). -/
theorem laneKept_bringUp {hdr data : Nat} (hhdr : hdr ≤ 64) (hdata : data ≤ 256) (m : Mrs) (s : State) :
    LaneKept s (bringUp hdr data m s) := by
  rw [bringUp_eq]
  refine LaneKept.trans ⟨fun _ => ?_⟩ (laneKept_drainTest _)
  simp only [TargetSound, EffectiveMrsFormed, broughtUp_target, broughtUp_arb]
  exact ⟨⟨le_rfl, le_rfl, hhdr, hdata, fun h => absurd rfl h, rfl⟩, rfl, nofun⟩

theorem laneKept_takeTrainAck (hdr data size : Nat) (s : State) : LaneKept s (takeTrainAck hdr data size s) := by
  unfold takeTrainAck
  split
  · split
    · obtain ⟨hhdr, hdata⟩ := trainAckSize_ranges ‹_›
      exact laneKept_bringUp hhdr hdata ..
    · exact laneKept_enterTargetHoldoff ..
  · exact .refl s
  · exact .refl s
  · exact .refl s

/-- Credits returned within the totals (R156). -/
theorem laneKept_takeTcredit (hdr data : Nat) (s : State) : LaneKept s (takeTcredit hdr data s) := by
  unfold takeTcredit
  split
  · rename_i hfits
    refine laneKept_modTarget (fun h => ?_) ⟨rfl, rfl⟩ id
    obtain ⟨-, -, hmaxHdr, hmaxData, hzero, htx⟩ := h
    exact ⟨hfits.1, hfits.2, hmaxHdr, hmaxData, hzero, htx⟩
  · exact laneKept_targetLoss ..

theorem laneKept_detectTarget (s : State) : LaneKept s (detectTarget s) := by
  unfold detectTarget
  dsimp only
  split
  · rename_i hl
    exact laneKept_enterTraining (by rw [hl]; nofun) _ true
  · exact laneKept_carrier s true

theorem laneKept_takeTrainEnd (s : State) : LaneKept s (takeTrainEnd s) := by
  unfold takeTrainEnd
  split
  · rename_i hl
    split
    · exact laneKept_enterTraining (by rw [hl]; nofun) _ s.target.carrier
    · exact .refl s
  · exact .refl s

theorem laneKept_endTargetHoldoff (s : State) : LaneKept s (endTargetHoldoff s) := by
  unfold endTargetHoldoff
  split
  · rename_i hl
    have hnotUp : s.target.link ≠ .up := by rw [hl]; nofun
    split
    · split
      · exact laneKept_enterTraining hnotUp _ s.target.carrier
      · exact laneKept_modTarget
          (fun h => TargetLane.sound.of_empty (TargetLane.txFits_of_idle (h.tx_idle hl)) (h.empty hnotUp))
          ⟨rfl, rfl⟩ nofun
    · exact .refl s
  · exact .refl s

/-! Completion parts -/

theorem laneKept_acceptData (t : Tag) (r : TagRec) (d : Tick) (n : Nat) (s : State) :
    LaneKept s (acceptData t r d n s) := by
  rw [acceptData_eq]
  exact .of_eq rfl rfl

theorem laneKept_placeData (r : TagRec) (poisoned : Bool) (data : List Byte) (s : State) :
    LaneKept s (placeData r poisoned data s) := by
  unfold placeData
  split
  · exact .refl s
  · dsimp only
    split <;> exact .of_eq rfl rfl

theorem laneKept_freeTag (t : Tag) (s : State) : LaneKept s (freeTag t s) := .of_eq rfl rfl

theorem laneKept_livePart (t : Tag) (r : TagRec) (d : Tick) (q : Part) (s : State) :
    LaneKept s (livePart t r d q s) := by
  unfold livePart
  split
  · exact ((laneKept_lapse ..).trans (laneKept_appendLog ..)).trans (laneKept_retire ..)
  · unfold takeRetry
    split
    · exact .of_eq rfl rfl
    · exact ((laneKept_freeTag t s).trans (laneKept_appendLog ..)).trans (laneKept_retire ..)
  · exact (laneKept_freeTag t s).trans (laneKept_retire ..)
  · rename_i poisoned _
    have haccept := (laneKept_placeData r poisoned q.data s).trans (laneKept_acceptData t r d q.data.length _)
    dsimp only
    split
    · exact haccept.trans (laneKept_retire ..)
    · exact haccept

theorem laneKept_orphanPart (t : Tag) (r : TagRec) (d : Tick) (q : Part) (s : State) :
    LaneKept s (orphanPart t r d q s) := by
  unfold orphanPart
  split
  · exact (laneKept_lapse ..).trans (laneKept_appendLog ..)
  · exact laneKept_freeTag t s
  · exact laneKept_freeTag t s
  · exact laneKept_acceptData ..

theorem laneKept_takePart (t : Tag) (q : Part) (s : State) : LaneKept s (takePart t q s) := by
  unfold takePart
  split
  · exact laneKept_appendLog ..
  · rename_i r _
    have hrunning (d : Tick) : LaneKept s (if r.orphaned then orphanPart t r d q s else livePart t r d q s) := by
      split
      · exact laneKept_orphanPart ..
      · exact laneKept_livePart ..
    split
    · exact laneKept_appendLog ..
    · exact laneKept_appendLog ..
    · exact hrunning _
    · exact hrunning _

/-! Host lanes and sessions -/

theorem laneKept_attachHandshake (h : Port) (mask : NoticeBits) (hdr data : Nat) (s : State) :
    LaneKept s (attachHandshake h mask hdr data s) := by
  unfold attachHandshake
  split <;> exact .of_eq rfl rfl

theorem laneKept_takeAttach (h : Port) (mask : NoticeBits) (hdr data : Nat) (s : State) :
    LaneKept s (takeAttach h mask hdr data s) := by
  unfold takeAttach
  split
  · exact laneKept_attachHandshake ..
  · exact laneKept_attachHandshake ..
  · exact (laneKept_portResetTaken ..).trans (laneKept_attachHandshake ..)
  · exact .refl s
  · exact .refl s

theorem laneKept_portResetOnLane (h : Port) (s : State) : LaneKept s (portResetOnLane h s) := by
  unfold portResetOnLane
  split
  · exact laneKept_portResetTaken ..
  · exact laneKept_modPort ..
  · exact laneKept_modPort ..
  · exact .refl s
  · exact .refl s

theorem laneKept_disableLane (h : Port) (s : State) : LaneKept s (disableLane h s) := by
  unfold disableLane
  split
  · exact laneKept_portResetTaken ..
  · exact laneKept_modPort ..
  · exact .refl s
  · exact .refl s
  · exact .refl s

theorem laneKept_failCheck (h : Port) (s : State) : LaneKept s (failCheck h s) := by
  unfold failCheck
  split
  · exact laneKept_modPort ..
  · exact laneKept_modPort ..
  · exact laneKept_portResetTaken ..
  · exact .refl s
  · exact .refl s

theorem laneKept_loseCarrier (h : Port) (s : State) : LaneKept s (loseCarrier h s) := by
  have hlevel := laneKept_modPort s h fun p => { p with carrier := false }
  unfold loseCarrier
  dsimp only
  split
  · exact hlevel.trans (laneKept_modPort ..)
  · exact hlevel.trans (laneKept_modPort ..)
  · exact hlevel.trans (laneKept_portResetTaken ..)
  · exact hlevel
  · exact hlevel

theorem laneKept_endHoldoff (h : Port) (s : State) : LaneKept s (endHoldoff h s) := by
  unfold endHoldoff
  split
  · exact laneKept_modPort ..
  · exact .refl s

theorem laneKept_takeStallExpiry (h : Port) (s : State) : LaneKept s (takeStallExpiry h s) := by
  unfold takeStallExpiry
  split
  · have hnoted (e : LogEntry) : LaneKept s (raiseEvent (eventStall h) (appendLog e s)) :=
      (laneKept_appendLog ..).trans (laneKept_raiseEvent ..)
    dsimp only
    split
    · exact (hnoted _).trans (laneKept_modPort ..)
    · exact (hnoted _).trans (laneKept_portResetTaken ..)
    · exact (hnoted _).trans (laneKept_portResetTaken ..)
  · exact .refl s

/-! Requests -/

theorem laneKept_admitRequest (h : Port) (i : Slot) (r : ReqRec) (id : HostId) (addr : BitVec 48) (s : State) :
    LaneKept s (admitRequest h i r id addr s) := by
  unfold admitRequest
  split
  · exact laneKept_modPort ..
  · dsimp only
    split
    · exact laneKept_modPort ..
    · split
      · exact laneKept_modPort ..
      · split
        · exact (laneKept_modPort ..).trans (laneKept_appendLog ..)
        · exact laneKept_modPort ..

theorem laneKept_intake (h : Port) (kind : BitVec 8) (id : HostId) (cls : BitVec 2) (addr : BitVec 48) (len : Nat)
    (data : List Byte) (i : Slot) (blocks : List StageBlock) (s : State) :
    LaneKept s (intake h kind id cls addr len data i blocks s) := by
  have hconsume := laneKept_modPort s h (consume blocks data)
  unfold intake
  dsimp only
  split
  · exact (hconsume.trans (laneKept_modPort ..)).trans (laneKept_appendLog ..)
  · exact hconsume.trans (laneKept_admitRequest ..)

theorem laneKept_request {s t : State} {h : Port} {kind : BitVec 8} {id : HostId} {cls : BitVec 2}
    {addr : BitVec 48} {len : BitVec 16} {data : List Byte}
    (ht : exec (.request h kind id cls addr len data) s = .next t) : LaneKept s t := by
  rcases execRequest_cases h kind id cls addr len data s with he | he | ⟨i, blocks, -, he⟩ | ⟨-, -, f, he⟩ <;>
    rw [he] at ht <;> cases ht
  · exact .refl s
  · exact ((laneKept_modPort ..).trans (laneKept_appendLog ..)).trans (laneKept_reportAll _)
  · exact (laneKept_intake ..).trans (laneKept_reportAll _)

/-! Commands of the management port, and resets -/

theorem laneKept_setResult (c : BitVec 8) (r : CmdResult) (s : State) : LaneKept s (setResult c r s) := .of_eq rfl rfl

theorem laneKept_commandReshape (b : BitVec 16) (s : State) : LaneKept s (commandReshape b s) := by
  unfold commandReshape
  split
  · exact laneKept_setResult ..
  · rename_i size _
    have hstarted : LaneKept s (drainStarted size s) := .of_eq rfl rfl
    split
    · exact laneKept_setResult ..
    · exact (hstarted.trans (laneKept_drainTest _)).trans (laneKept_setResult ..)

theorem laneKept_commandPortReset (a : BitVec 8) (s : State) : LaneKept s (commandPortReset a s) := by
  unfold commandPortReset
  split
  · exact laneKept_setResult ..
  · exact (laneKept_portResetOnLane ..).trans (laneKept_setResult ..)

theorem laneKept_commandTargetReset (s : State) : LaneKept s (commandTargetReset s) :=
  (laneKept_downWith ..).trans (laneKept_setResult ..)

theorem laneKept_commandTableFetch (a : BitVec 8) (b : BitVec 16) (s : State) :
    LaneKept s (commandTableFetch a b s) := by
  unfold commandTableFetch
  split <;> exact .of_eq rfl rfl

theorem laneKept_noticeChange (h : Port) (b : Bool) (s : State) : LaneKept s (noticeChange h b s) := by
  unfold noticeChange
  split
  · exact laneKept_modPort ..
  · exact .refl s

theorem laneKept_commitTable {s t : State} {x : TableIndex} (ht : commitTable x s = some t) : LaneKept s t := by
  cases x with
  | port h =>
    simp only [commitTable, commitPort] at ht
    split at ht
    · cases ht
    · rename_i p _
      split at ht
      · cases ht
        have hwritten : LaneKept s (setPortPolicy h p s) := .of_eq rfl rfl
        refine LaneKept.trans ?_ (laneKept_noticeChange ..)
        split
        · exact hwritten
        · exact hwritten.trans (laneKept_disableLane ..)
      · cases ht
  | window i =>
    simp only [commitTable, commitWindow] at ht
    split at ht
    · cases ht
      exact LaneKept.trans (t := setWindow i _ s) (.of_eq rfl rfl) (laneKept_noticeChange ..)
    · cases ht
  | global =>
    obtain ⟨g, -, rfl⟩ := Option.map_eq_some_iff.1 ht
    exact .of_eq rfl rfl

theorem laneKept_commandTableCommit (a : BitVec 8) (b : BitVec 16) (s : State) :
    LaneKept s (commandTableCommit a b s) := by
  unfold commandTableCommit
  split
  · exact laneKept_setResult ..
  · split
    · exact laneKept_setResult ..
    · exact (laneKept_commitTable ‹_›).trans (laneKept_setResult ..)

/-- A part reset leaves a lane without credits and sizes, in TRAINING or DOWN (R148, R163, R189). -/
theorem targetSound_resetBlocks (c : ResetCause) (l : FaultLog) (f : PortState → PortState) (cut : Option TargetTx)
    (s a : State) : TargetSound (resetBlocks c l f (fun _ => freshTarget cut a.target) s) := by
  show TargetSound { State.reset with target := freshTarget cut a.target }
  unfold freshTarget
  split
  · exact ⟨TargetLane.sound.of_empty rfl ⟨rfl, rfl, rfl, rfl⟩, rfl, nofun⟩
  · exact ⟨TargetLane.sound.of_empty rfl ⟨rfl, rfl, rfl, rfl⟩, rfl, nofun⟩

theorem laneKept_hardReset (c : ResetCause) (s : State) : LaneKept s (hardReset c s) :=
  ⟨fun _ => targetSound_resetBlocks c State.reset.log (freshPort none) none s s⟩

theorem laneKept_commandSoftReset (s : State) : LaneKept s (commandSoftReset s) := by
  refine LaneKept.trans ⟨fun _ => ?_⟩ (laneKept_setResult ..)
  exact targetSound_resetBlocks .soft { s.log with view := none } softPort (cutTarget s.target).lastCut s s

theorem laneKept_beginHold (c : HoldCause) (s : State) : LaneKept s (beginHold c s) :=
  (laneKept_cutTarget s).trans (.of_eq rfl rfl)

theorem laneKept_takeCommandWord (w : Word) (s : State) : LaneKept s (takeCommandWord w s) := by
  unfold takeCommandWord
  split
  · exact laneKept_setResult ..
  · exact laneKept_commandPortReset ..
  · exact (laneKept_commandTargetReset s).trans (laneKept_reportAll _)
  · exact laneKept_commandSoftReset s
  · exact laneKept_commandReshape ..
  · exact .of_eq rfl rfl
  · exact .of_eq rfl rfl
  · exact laneKept_commandTableFetch ..
  · exact (laneKept_commandTableCommit ..).trans (laneKept_reportAll _)

theorem laneKept_writeRegister (a : BitVec 16) (w : Word) (s : State) : LaneKept s (writeRegister a w s) := by
  unfold writeRegister
  split
  · exact .of_eq rfl rfl
  · split
    · exact .of_eq rfl rfl
    · split
      · exact laneKept_takeCommandWord w s
      · unfold writeStaging
        split <;> exact .of_eq rfl rfl

theorem laneKept_invalidCommand (w : Word) (s : State) :
    LaneKept s (if commandInRange w then s else answerInvalid (commandCode w) s) := by
  split
  · exact .refl s
  · exact laneKept_setResult ..

/-! The expiries and the tick -/

theorem laneKept_expireTag (t : Tag) (s : State) : LaneKept s (expireTag t s) := by
  unfold expireTag
  split
  · exact .refl s
  · dsimp only
    split
    · exact .refl s
    · exact .of_eq rfl rfl
    · exact (laneKept_lapse ..).trans (laneKept_appendLog ..)
    · exact (laneKept_lapse ..).trans (laneKept_appendLog ..)

theorem laneKept_takeDeadlines (s : State) : LaneKept s (takeDeadlines s) :=
  ((laneKept_foldl (fun a t => laneKept_expireTag t a) _ s).trans (laneKept_retireAll ..)).trans (laneKept_drainTest _)

theorem laneKept_takeBackoffEnds (s : State) : LaneKept s (takeBackoffEnds s) := by
  refine laneKept_foldl (fun a t => ?_) _ s
  unfold endBackoff
  split
  · exact .refl a
  · split
    · exact .of_eq rfl rfl
    · exact .refl a

theorem laneKept_takeQuarantineEnds (s : State) : LaneKept s (takeQuarantineEnds s) :=
  laneKept_foldl (fun a t => laneKept_freeTag t a) _ s

theorem laneKept_takeDrainLimit (s : State) : LaneKept s (takeDrainLimit s) := by
  unfold takeDrainLimit
  split
  · exact .refl s
  · split
    · refine LaneKept.trans (LaneKept.trans ?_ (laneKept_appendLog ..)) (laneKept_raiseEvent ..)
      exact .of_eq rfl rfl
    · exact .refl s

theorem laneKept_closeTick (s : State) : LaneKept s (closeTick s) :=
  ((((((((laneKept_takeDeadlines s).trans (laneKept_reportAll _)).trans (laneKept_takeBackoffEnds _)).trans
    (laneKept_takeQuarantineEnds _)).trans (laneKept_takeDrainLimit _)).trans
    (laneKept_foldl (fun a h => laneKept_takeStallExpiry h a) allPorts _)).trans
    (laneKept_foldl (fun a h => laneKept_endHoldoff h a) allPorts _)).trans
    (laneKept_endTargetHoldoff _)).trans (laneKept_takeTrainEnd _)

theorem laneKept_advance (s : State) : LaneKept s (advance s) := .of_eq rfl rfl

/-! The step -/

theorem takes_laneKept {s t : State} {f : State → State} (hf : ∀ a, LaneKept a (f a)) (ht : takes f s = .next t) :
    LaneKept s t :=
  takes_keeps (P := LaneKept s) (fun a ha => ha.trans (hf a)) (.refl s) ht

/-- An event and the reports after it. -/
theorem takes_reported_laneKept {s t : State} {f : State → State} (hf : ∀ a, LaneKept a (f a))
    (ht : takes (fun a => reportAll (f a)) s = .next t) : LaneKept s t :=
  takes_laneKept (fun a => (hf a).trans (laneKept_reportAll _)) ht

/-- An event of one port, and the reports after it. -/
theorem takes_port_laneKept {s t : State} {h : Port} (f : State → PortState → PortState)
    (ht : takes (fun a => reportAll (a.modPort h (f a))) s = .next t) : LaneKept s t :=
  takes_reported_laneKept (fun a => laneKept_modPort a h (f a)) ht

/-- An event taken under a condition. -/
theorem laneKept_when (c : State → Bool) {f : State → State} (hf : ∀ a, LaneKept a (f a)) (s : State) :
    LaneKept s (if c s then f s else s) := by
  split
  · exact hf s
  · exact .refl s

/-- Every command keeps the target lane sound. -/
theorem exec_laneKept {c : Instr} {s t : State} (ht : exec c s = .next t) : LaneKept s t := by
  cases c with
  | tickEvent => exact takes_laneKept (fun a => (laneKept_closeTick a).trans (laneKept_advance _)) ht
  | deadlineExpiry => exact takes_reported_laneKept laneKept_takeDeadlines ht
  | backoffEnd => exact takes_laneKept laneKept_takeBackoffEnds ht
  | quarantineEnd => exact takes_laneKept laneKept_takeQuarantineEnds ht
  | drainLimitExpiry => exact takes_laneKept laneKept_takeDrainLimit ht
  | drainComplete => exact takes_laneKept laneKept_drainTest ht
  | stallExpiry h => exact takes_laneKept (laneKept_takeStallExpiry h) ht
  | hostCarrierDetect h =>
    cases ht
    split
    · exact laneKept_modPort ..
    · exact laneKept_modPort ..
  | hostCarrierLoss h =>
    cases ht
    split
    · exact laneKept_modPort ..
    · exact laneKept_loseCarrier h s
  | hostCheckFailure h => exact takes_laneKept (laneKept_failCheck h) ht
  | hostHoldoffEnd h => exact takes_laneKept (laneKept_endHoldoff h) ht
  | attach h mask hdr data => exact takes_reported_laneKept (laneKept_takeAttach h mask hdr.toNat data.toNat) ht
  | request h kind id cls addr len data => exact laneKept_request ht
  | credit h hdr data =>
    exact takes_laneKept (laneKept_when (fun a => (a.port h).isActive) fun a =>
      (laneKept_modPort a h (takeCredit hdr.toNat data.toNat)).trans (laneKept_reportAll _)) ht
  | noticeAck h bits =>
    exact takes_laneKept (laneKept_when (fun a => (a.port h).isActive) fun a =>
      (laneKept_modPort a h (acknowledge bits)).trans (laneKept_reportAll _)) ht
  | hostUnusablePacket h bytes => exact takes_laneKept .refl ht
  | attachAnswerStart h => exact takes_port_laneKept (fun _ => startIf .answer startAnswer) ht
  | grantTransmissionStart h => exact takes_port_laneKept (fun _ => startIf .grant startGrant) ht
  | noticeTransmissionStart h => exact takes_port_laneKept (fun _ => startIf .notice startNotice) ht
  | responseTransmissionStart h => exact takes_port_laneKept (fun a => startIf .response (startResponse a.buffer)) ht
  | responseTransmissionEnd h => exact takes_port_laneKept (fun _ => endResponse) ht
  | grantTransmissionEnd h => exact takes_port_laneKept (fun _ => endGrant) ht
  | hostTransmissionEnd h => exact takes_port_laneKept (fun _ => endOther) ht
  | targetCarrierDetect =>
    cases ht
    split
    · exact laneKept_carrier s true
    · exact laneKept_detectTarget s
  | targetCarrierLoss =>
    cases ht
    split
    · exact laneKept_carrier s false
    · exact (laneKept_loseTarget s).trans (laneKept_reportAll _)
  | targetCheckFailure => exact takes_reported_laneKept (laneKept_downWith .protocol) ht
  | trainAck hdr data size => exact takes_reported_laneKept (laneKept_takeTrainAck hdr.toNat data.toNat size.toNat) ht
  | trainEndTickExpiry => exact takes_laneKept laneKept_takeTrainEnd ht
  | targetHoldoffEnd => exact takes_laneKept laneKept_endTargetHoldoff ht
  | tcpl tag status remaining data =>
    exact takes_laneKept (laneKept_when State.targetUp fun a =>
      ((laneKept_takePart tag ⟨status, remaining.toNat, data⟩ a).trans (laneKept_drainTest _)).trans
        (laneKept_reportAll _)) ht
  | tcredit hdr data =>
    exact takes_laneKept (laneKept_when State.targetUp fun a =>
      (laneKept_takeTcredit hdr.toNat data.toNat a).trans (laneKept_reportAll _)) ht
  | targetUnusablePacket bytes => exact takes_laneKept .refl ht
  | treqTransmissionEnd => exact takes_laneKept laneKept_endTreq ht
  | issueGrant =>
    exact takes_reported_laneKept (laneKept_atOpportunity fun _ => laneKept_issueGrantStep) ht
  | retryGrant =>
    exact takes_reported_laneKept (laneKept_atOpportunity fun _ => laneKept_retryGrantStep) ht
  | claimEntry =>
    exact takes_reported_laneKept (laneKept_atOpportunity fun a _ =>
      ((evaluated_ceilingRetires a).trans (evaluated_enterClaims _)).laneKept) ht
  | dataCreditHold =>
    exact takes_reported_laneKept (laneKept_atOpportunity fun a _ => (evaluated_evaluate a).laneKept) ht
  | readCeilingRetire =>
    exact takes_reported_laneKept (laneKept_atOpportunity fun a _ => (evaluated_ceilingRetires a).laneKept) ht
  | fenceReady h => exact takes_port_laneKept (fun _ => fenceTest) ht
  | eventPendingWrite w => exact takes_laneKept (f := writePending w) (fun _ => .of_eq rfl rfl) ht
  | eventEnableWrite w => exact takes_laneKept (f := writeEnable w) (fun _ => .of_eq rfl rfl) ht
  | registerWrite addr w => exact takes_laneKept (laneKept_writeRegister addr w) ht
  | writeFrameDiscard => exact takes_laneKept (f := endFrame) (fun _ => .of_eq rfl rfl) ht
  | invalidCommand w => exact takes_laneKept (laneKept_invalidCommand w) ht
  | portReset a => exact takes_laneKept (laneKept_commandPortReset a) ht
  | targetReset => exact takes_reported_laneKept laneKept_commandTargetReset ht
  | softReset => exact takes_laneKept laneKept_commandSoftReset ht
  | reshape b => exact takes_laneKept (laneKept_commandReshape b) ht
  | logPop => exact takes_laneKept (f := commandLogPop) (fun _ => .of_eq rfl rfl) ht
  | logClear => exact takes_laneKept (f := commandLogClear) (fun _ => .of_eq rfl rfl) ht
  | tableFetch a b => exact takes_laneKept (laneKept_commandTableFetch a b) ht
  | tableCommit a b => exact takes_reported_laneKept (laneKept_commandTableCommit a b) ht
  | powerOnReset =>
    cases ht
    split
    · exact .refl s
    · exact laneKept_hardReset ..
  | pinReset =>
    cases ht
    split
    · exact .refl s
    · exact laneKept_hardReset ..
  | resetHoldBegin c => exact takes_laneKept (laneKept_beginHold c) ht

end Sys2Proof.Machine

namespace Sys2Proof.Proofs

open Sys2Proof.Machine

/-- Settles O10: every command keeps the lane sound; the queue of commands is no part of what its soundness rests on. -/
theorem stepKeepsTargetSound : Obligations.StepKeepsTargetSound := by
  intro s t hs ht
  unfold step at ht
  split at ht
  · cases ht
    exact hs
  · rename_i rest _
    have hrest : LaneKept s { s with pending := rest } := .of_eq rfl rfl
    exact (hrest.trans (exec_laneKept ht)).sound hs

end Sys2Proof.Proofs
end

section
/-! SUPPORT. The events of the target lane outside UP (R148, R151, R153, R154), and its credits (R156, R157). -/

namespace Sys2Proof.Machine

/-! Training that fails -/

theorem downWith_of_training {s : State} {e : Tick} (h : s.target.link = .training e) (c : DownCause) :
    downWith c s = trainingFails c s := by
  simp [downWith, h]

/-- What a training that fails leaves, after the reports: the lane where the table says, nothing else touched (R153). -/
theorem trainingLeft {s : State} {f : TargetLane → TargetLane} {l : TargetLink} {c : DownCause}
    (hlink : (f s.target).link = l) (hcause : (f s.target).lastDown = c) (hdown : l ≠ .up) :
    (reportAll (s.modTarget f)).target.link = l ∧ (reportAll (s.modTarget f)).target.lastDown = c ∧
      (pendingSet (reportAll (s.modTarget f))).getLsbD eventTargetDown = true ∧
      (∀ h : Port, (reportAll (s.modTarget f)).port h = report (s.port h)) ∧
      { reportAll (s.modTarget f) with target := s.target, ports := s.ports } = s :=
  ⟨hlink, hcause, targetDown_pending (hlink.trans_ne hdown), port_reportAll (s.modTarget f), rfl⟩

end Sys2Proof.Machine

namespace Sys2Proof.Proofs

open Sys2Proof.Machine

/-- Settles O46: each event by the lane's state, and an expiry by whether its end tick is reached. -/
theorem targetLaneTrains : Obligations.TargetLaneTrains := by
  intro s e hhold
  have hdetect : exec .targetCarrierDetect s = .next (detectTarget s) := by
    simp [exec, execTargetCarrierDetect, inHold_of_none hhold]
  have htrain : exec .trainEndTickExpiry s = .next (takeTrainEnd s) := takes_next hhold _
  have hend : exec .targetHoldoffEnd s = .next (endTargetHoldoff s) := takes_next hhold _
  refine ⟨fun hl => ?down, fun hl => ?level, fun hl hr => ?trainEnd, fun hl hr => ?holdoffEnd, fun hl hr => ?early⟩
  case down =>
    rw [hdetect, detectTarget, if_pos hl]
    rfl
  case level =>
    rw [hdetect, detectTarget, if_neg hl]
    rfl
  case trainEnd =>
    simp only [htrain, takeTrainEnd, hl, hr, if_true]
    rfl
  case holdoffEnd =>
    simp only [hend, endTargetHoldoff, hl, hr, if_true]
    by_cases hc : s.target.carrier = true
    · rw [if_pos hc, if_pos hc]
      rfl
    · rw [if_neg hc, if_neg hc]
      rfl
  case early =>
    rw [htrain, hend]
    rcases hl with hl | hl <;> simp [takeTrainEnd, endTargetHoldoff, hl, hr]

/-- Settles O47: a carrier loss takes the lane DOWN, each other failure to HOLDOFF, by `trainingLeft`. -/
theorem trainingFails : Obligations.TrainingFails := by
  intro s e hdr data size hhold hl
  refine ⟨?carrier, ?check, fun hack => ?ack, ?command⟩
  case carrier =>
    have hexec : exec .targetCarrierLoss s = .next (reportAll (s.modTarget fun l =>
        { cutTarget { l with carrier := false } with link := .down, lastDown := .carrierLoss })) := by
      simp only [exec, execTargetCarrierLoss, inHold_of_none hhold, loseTarget, hl]
      rfl
    exact ⟨_, hexec, trainingLeft rfl rfl nofun⟩
  case check =>
    have hexec : exec .targetCheckFailure s = .next (reportAll (Machine.trainingFails .protocol s)) :=
      (takes_next hhold fun s => reportAll (downWith .protocol s)).trans (by rw [downWith_of_training hl])
    exact ⟨_, hexec, trainingLeft rfl rfl nofun⟩
  case ack =>
    have hexec : exec (.trainAck hdr data size) s = .next (reportAll (Machine.trainingFails .protocol s)) :=
      (takes_next hhold fun s => reportAll (takeTrainAck hdr.toNat data.toNat size.toNat s)).trans
        (by simp only [takeTrainAck, hl, hack])
    exact ⟨_, hexec, trainingLeft rfl rfl nofun⟩
  case command =>
    have hexec : exec .targetReset s = .next (reportAll (setResult 2 .done (Machine.trainingFails .targetReset s))) :=
      (takes_next hhold fun s => reportAll (commandTargetReset s)).trans
        (by rw [commandTargetReset, downWith_of_training hl]; rfl)
    exact ⟨_, hexec, rfl, rfl, targetDown_pending nofun, port_reportAll (Machine.trainingFails .targetReset s), rfl⟩

/-- Settles O49: by whether both sums fit; where one does not, by what `targetLoss_reported` says. -/
theorem tcreditAndTreqEnd : Obligations.TcreditAndTreqEnd := by
  intro s hdr data hhold hup
  have hexec : exec (.tcredit hdr data) s = .next (reportAll (takeTcredit hdr.toNat data.toNat s)) :=
    (takes_next hhold fun s => if s.targetUp then reportAll (takeTcredit hdr.toNat data.toNat s) else s).trans
      (by rw [if_pos (targetUp_iff.2 hup)])
  refine ⟨fun hh hd => ?fits, fun hover => ?loss, fun q hq => ?treq⟩
  case fits =>
    rw [takeTcredit, if_pos ⟨hh, hd⟩] at hexec
    exact ⟨_, hexec, rfl, port_reportAll (s.modTarget _), rfl⟩
  case loss =>
    rw [takeTcredit, if_neg (by omega)] at hexec
    obtain ⟨hlost, hports⟩ := targetLoss_reported (reportedFrom_reportAll (targetLoss .protocol s))
    exact ⟨_, hexec, hlost, hports, (reportAll_mgmt _).trans (targetLoss_lost _ s).2⟩
  case treq =>
    have htreq : exec .treqTransmissionEnd s = .next (s.modTarget endTreq) :=
      takes_next hhold fun s => s.modTarget endTreq
    rw [htreq, State.modTarget, endTreq, hq]

end Sys2Proof.Proofs
end

section
/-! SUPPORT. The state that a TRAIN_ACK leaves as it brings the lane UP (R152, R155; log 22). -/

namespace Sys2Proof.Machine

/-- A bit of a mask that a word does not meet is clear in the word. -/
theorem getLsbD_of_and_eq_zero {w : Nat} {x mask : BitVec w} {b : Nat} (h : x &&& mask = 0)
    (hb : mask.getLsbD b = true) : x.getLsbD b = false := by
  have hand := congrArg (BitVec.getLsbD · b) h
  simpa only [BitVec.getLsbD_and, hb, Bool.and_true, BitVec.ofNat_eq_ofNat, BitVec.getLsbD_zero] using hand

/-! The checks (R152) -/

theorem trainAckSize_of_passing {hdr data size : Nat} {m : Mrs} (hh : 1 ≤ hdr ∧ hdr ≤ 64) (hd : 1 ≤ data ∧ data ≤ 256)
    (hsize : size = m.bytes) (hfit : m.bytes ≤ 64 * data) : trainAckSize hdr data size = some m := by
  have hblocks : m.bytes / Config.blockBytes ≤ data := Nat.div_le_of_le_mul hfit
  simp [trainAckSize, hsize, Mrs.ofBytes_bytes, hh, hd, hblocks]

/-! The drain test at the entry to UP -/

/-- Where the effective MRS is formed, the drain test leaves it formed from what is then configured (R155). -/
theorem drainTest_target_of_formed {w : State} {m : Mrs} (hmax : w.target.maxReq = some m)
    (heff : w.target.effMrs = some (w.arb.configuredMrs.smaller m)) :
    (drainTest w).target = { w.target with effMrs := some ((drainTest w).arb.configuredMrs.smaller m) } := by
  rcases drainTest_cases w with h | ⟨z, x, y, -, -, h⟩
  · rw [h, ← heff]
  · rw [h]
    change { w.target with effMrs := w.target.maxReq.map z.smaller } = { w.target with effMrs := some (z.smaller m) }
    rw [hmax]
    rfl

theorem drainTest_arb_of_draining {w : State} {z : Mrs} {start : Tick} {limit : Nat}
    (hd : w.arb.reshape = .draining z start limit) : (drainTest w).arb =
      if drainClear w then { w.arb with configuredMrs := z, outcome := .done, reshape := .idle } else w.arb := by
  cases hc : drainClear w
  · rw [drainTest_of_not_clear hc]
    rfl
  · rw [drainTest_of_clear hd hc]
    rfl

/-- The drain test raises RESHAPE_END alone (R68). -/
theorem getLsbD_occ_drainTest (w : State) {b : Nat} (hb : b ≠ eventReshapeEnd) :
    (drainTest w).events.occ.getLsbD b = w.events.occ.getLsbD b := by
  rcases drainTest_cases w with h | ⟨z, x, y, -, -, h⟩ <;> rw [h]
  rw [completeDrain, getLsbD_occ_raiseEvent _ _ _ (by decide), decide_eq_false hb, Bool.or_false]

theorem drainClear_reportAll (w : State) : drainClear (reportAll w) = drainClear w := by
  simp only [drainClear, port_reportAll, PortState.records, report_slots, reportAll_tags]

/-! The state after the reports -/

/-- The state that a TRAIN_ACK that passes leaves in the end. -/
def afterTrainAck (hdr data : Nat) (m : Mrs) (s : State) : State := reportAll (drainTest (broughtUp hdr data m s))

theorem exec_trainAck_of_passing {s : State} {e : Tick} {hdr : BitVec 8} {data size : BitVec 16} {m : Mrs}
    (hhold : s.hold = none) (hl : s.target.link = .training e)
    (hack : trainAckSize hdr.toNat data.toNat size.toNat = some m) :
    exec (.trainAck hdr data size) s = .next (afterTrainAck hdr.toNat data.toNat m s) :=
  (takes_next hhold fun s => reportAll (takeTrainAck hdr.toNat data.toNat size.toNat s)).trans
    (by simp only [takeTrainAck, hl, hack, bringUp_eq, afterTrainAck])

section

variable (hdr data : Nat) (m : Mrs) (s : State)

theorem afterTrainAck_arb : (afterTrainAck hdr data m s).arb = (drainTest (broughtUp hdr data m s)).arb :=
  reportAll_arb _

theorem afterTrainAck_target : (afterTrainAck hdr data m s).target = { s.target with
    link := .up, totalHdr := hdr, totalData := data, heldHdr := hdr, heldData := data, maxReq := some m,
    effMrs := some ((afterTrainAck hdr data m s).arb.configuredMrs.smaller m), tx := .idle } := by
  have hw := broughtUp_target hdr data m s
  have hmax : (broughtUp hdr data m s).target.maxReq = some m := by rw [hw]; rfl
  have heff : (broughtUp hdr data m s).target.effMrs = some ((broughtUp hdr data m s).arb.configuredMrs.smaller m) := by
    rw [hw, broughtUp_arb]; rfl
  rw [afterTrainAck_arb, afterTrainAck, reportAll_target, drainTest_target_of_formed hmax heff, hw]
  rfl

theorem afterTrainAck_log : (afterTrainAck hdr data m s).log = (endAllStranded m (trained hdr data m s)).log := by
  rw [afterTrainAck, reportAll_log, drainTest_log, broughtUp_log]

theorem afterTrainAck_port (h : Port) : (afterTrainAck hdr data m s).port h =
    report (raiseNotice noticeTargetUp ((endAllStranded m (trained hdr data m s)).port h)) := by
  rw [afterTrainAck, port_reportAll, drainTest_port, broughtUp_port]

theorem afterTrainAck_slot (h : Port) (i : Slot) : ((afterTrainAck hdr data m s).port h).slot i =
    ((endAllStranded m (trained hdr data m s)).port h).slot i := by
  rw [afterTrainAck_port, report_slot, raiseNotice_slot]

theorem afterTrainAck_respQ (h : Port) : ((afterTrainAck hdr data m s).port h).respQ =
    ((endAllStranded m (trained hdr data m s)).port h).respQ := by
  rw [afterTrainAck_port, report_respQ, raiseNotice_respQ]

theorem afterTrainAck_notices {h : Port} {b : Nat}
    (hb : ((endAllStranded m (trained hdr data m s)).port h).noticePending.getLsbD b = true) :
    ((afterTrainAck hdr data m s).port h).noticePending.getLsbD b = true := by
  rw [afterTrainAck_port, report_noticePending]
  exact (raiseNotice_frame noticeTargetUp _).2 b hb

theorem strandedEnded_trained (h : Port) :
    StrandedEnded m (s.port h) ((endAllStranded m (trained hdr data m s)).port h) :=
  (strandingDone_endAllStranded m (trained hdr data m s)).ports h

/-- TARGET_UP is raised on every ACTIVE port (R152). -/
theorem afterTrainAck_targetUp {h : Port} (hl : (s.port h).link = .active) :
    ((afterTrainAck hdr data m s).port h).noticePending.getLsbD 4 = true := by
  rw [afterTrainAck_port, report_noticePending,
    raiseNotice_of_active _ ((strandedEnded_trained hdr data m s h).link.trans hl)]
  simp

/-- TARGET_DOWN is no longer pending: its condition has ended, and no occurrence stands in its place (R172). -/
theorem afterTrainAck_not_targetDown (hocc : s.events.occ.getLsbD eventTargetDown = false) :
    (pendingSet (afterTrainAck hdr data m s)).getLsbD eventTargetDown = false := by
  have hup : (afterTrainAck hdr data m s).targetUp = true := targetUp_iff.2 (by rw [afterTrainAck_target])
  have hstands : (afterTrainAck hdr data m s).events.occ.getLsbD eventTargetDown = false := by
    rw [afterTrainAck, reportAll_events, getLsbD_occ_drainTest _ (by decide), broughtUp_occ _ _ _ _ (by decide), hocc]
  simp only [pendingSet, hup, BitVec.getLsbD_or, hstands]
  cases (afterTrainAck hdr data m s).log.records.isEmpty <;> rfl

theorem afterTrainAck_frame :
    { afterTrainAck hdr data m s with
      target := s.target, ports := s.ports, log := s.log, events := s.events, arb := s.arb } = s := by
  have hw := broughtUp_frame hdr data m s
  unfold afterTrainAck
  generalize broughtUp hdr data m s = w at hw ⊢
  have hw' := congrArg (fun a : State => { a with arb := s.arb }) hw
  rcases drainTest_cases w with h | ⟨z, x, y, -, -, h⟩ <;> rw [h]
  · exact hw'
  · exact hw'

/-- What a TRAIN_ACK leaves unchanged, whatever it ends. -/
theorem afterTrainAck_keeps : (afterTrainAck hdr data m s).timebase = s.timebase ∧
    (afterTrainAck hdr data m s).tags = s.tags ∧ (afterTrainAck hdr data m s).buffer = s.buffer ∧
    (afterTrainAck hdr data m s).policy = s.policy ∧ (afterTrainAck hdr data m s).mgmt = s.mgmt ∧
    (afterTrainAck hdr data m s).pending = s.pending := by
  have hframe := afterTrainAck_frame hdr data m s
  generalize afterTrainAck hdr data m s = t at hframe ⊢
  exact ⟨(congrArg State.timebase hframe :), (congrArg State.tags hframe :), (congrArg State.buffer hframe :),
    (congrArg State.policy hframe :), (congrArg State.mgmt hframe :), (congrArg State.pending hframe :)⟩

theorem afterTrainAck_arb_of_idle (hidle : s.arb.reshape = .idle) : (afterTrainAck hdr data m s).arb = s.arb := by
  have harb := broughtUp_arb hdr data m s
  rw [afterTrainAck_arb, drainTest_of_idle (by rw [harb, hidle]), harb]

theorem drainClear_afterTrainAck : drainClear (afterTrainAck hdr data m s) = drainClear (broughtUp hdr data m s) :=
  (drainClear_reportAll _).trans (drainClear_congr (drainTest_ports _) (drainTest_tags _))

theorem afterTrainAck_arb_of_draining {z : Mrs} {start : Tick} {limit : Nat}
    (hd : s.arb.reshape = .draining z start limit) : (afterTrainAck hdr data m s).arb =
      if drainClear (afterTrainAck hdr data m s) then
        { s.arb with configuredMrs := z, outcome := .done, reshape := .idle } else s.arb := by
  have harb := broughtUp_arb hdr data m s
  rw [afterTrainAck_arb, drainClear_afterTrainAck, drainTest_arb_of_draining (by rw [harb, hd]), harb]

/-- Where no record is in ISSUING, step 3 of R152 has nothing to do. -/
theorem endAllStranded_trained_of_none (hn : ∀ h i r, (s.port h).slot i = some r → r.stage ≠ .issuing) :
    endAllStranded m (trained hdr data m s) = trained hdr data m s :=
  endAllStranded_of_none (s := trained hdr data m s) hn m

theorem afterTrainAck_of_none_of_idle (hn : ∀ h i r, (s.port h).slot i = some r → r.stage ≠ .issuing)
    (hidle : s.arb.reshape = .idle) : { afterTrainAck hdr data m s with target := s.target, ports := s.ports } = s := by
  have hup : broughtUp hdr data m s = enteredUp (trained hdr data m s) :=
    congrArg enteredUp (endAllStranded_trained_of_none hdr data m s hn)
  have harb : (broughtUp hdr data m s).arb.reshape = .idle := by rw [broughtUp_arb, hidle]
  have hafter : afterTrainAck hdr data m s = reportAll (enteredUp (trained hdr data m s)) := by
    rw [afterTrainAck, drainTest_of_idle harb, hup]
  rw [hafter]
  exact (congrArg (fun a : State => { a with target := s.target, ports := s.ports })
    (enteredUp_frame (trained hdr data m s)) :)

end

end Sys2Proof.Machine

namespace Sys2Proof.Proofs

open Sys2Proof.Machine

/-- Settles O48: the lane, the events and the drain by the lemmas about `afterTrainAck`; each record by whether step 3
of R152 ends it, and by its kind where it does. -/
theorem trainAckBringsTheLaneUp : Obligations.TrainAckBringsTheLaneUp := by
  intro s e hdr data size m hhold hl hh1 hh64 hd1 hd256 hsize hfit hocc
  have hack := trainAckSize_of_passing ⟨hh1, hh64⟩ ⟨hd1, hd256⟩ hsize hfit
  have hbit : s.events.occ.getLsbD eventTargetDown = false := getLsbD_of_and_eq_zero hocc (by decide)
  obtain ⟨htimebase, htags, hbuffer, hpolicy, hmgmt, hpending⟩ := afterTrainAck_keeps hdr.toNat data.toNat m s
  refine ⟨_, exec_trainAck_of_passing hhold hl hack, afterTrainAck_target .., afterTrainAck_not_targetDown _ _ _ _ hbit,
    fun h => afterTrainAck_targetUp _ _ _ _, htimebase, htags, hbuffer, hpolicy, hmgmt, hpending,
    afterTrainAck_arb_of_idle _ _ _ _,
    fun z start limit => afterTrainAck_arb_of_draining _ _ _ _, fun hn => ⟨fun h => ?ports, ?log, ?frame⟩,
    fun h i q hq => ⟨fun hstands hk => ?stands, fun c x hs hc hm hx =>
      ⟨fun hk hff hdone => ?ended, fun hk => ⟨?vacant, fun hact => ?notice, fun honly => ?logged⟩⟩⟩⟩
  case ports => rw [afterTrainAck_port, endAllStranded_trained_of_none _ _ _ _ hn]; rfl
  case log => rw [afterTrainAck_log, endAllStranded_trained_of_none _ _ _ _ hn]; rfl
  case frame => exact afterTrainAck_of_none_of_idle _ _ _ _ hn
  case stands =>
    rw [afterTrainAck_slot]
    refine (strandedEnded_trained _ _ m s h).slots i q hq hk (Bool.eq_false_iff.2 fun hstr => ?_)
    obtain ⟨hs, c, hc, hm⟩ := isStranded_iff.1 hstr
    rcases hstands with hns | hle
    · exact hns hs
    · exact absurd (hle c hc) (Nat.not_le.2 hm)
  case ended =>
    obtain ⟨r, hr, -, hready, hfail, hstatus, hstaging, hmem⟩ :=
      endAllStranded_ended (s := trained hdr.toNat data.toNat m s) hq hk hs hc hm hx hff hdone
    exact ⟨r, (afterTrainAck_slot ..).trans hr, hready, hfail, hstatus, hstaging, by rwa [afterTrainAck_respQ]⟩
  all_goals have hstr : isStranded m q = true := isStranded_iff.2 ⟨hs, c, hc, hm⟩
  case vacant =>
    exact (afterTrainAck_slot ..).trans
      (endAllStranded_dropped (s := trained hdr.toNat data.toNat m s) hq hk hstr).vacant
  case notice =>
    exact afterTrainAck_notices _ _ _ _
      ((endAllStranded_dropped (s := trained hdr.toNat data.toNat m s) hq hk hstr).notice hact)
  case logged =>
    have hlast := endAllStranded_lastLogged (s := trained hdr.toNat data.toNat m s) hq hk hstr honly
    rw [dropEntry, nextPieceAddr, nextOffset_of_cut hc hx] at hlast
    exact LastLogged.of_log_eq hlast (afterTrainAck_log ..)

end Sys2Proof.Proofs
end

/-! Proofs about the fault log and the management events (09): the append and its overwrite, LOG_POP and LOG_CLEAR, the
event writes, and what every step keeps of the log's order and of the occurrence bits. -/

section
/-! SUPPORT. The append by whether the list is full (R164, R167), and the log view (R168). -/

namespace Sys2Proof.Machine

/-! The append (R164, R167) -/

theorem appendLog_of_room {s : State} (hroom : s.log.records.length < 32) (e : LogEntry) :
    appendLog e s =
      { s with log := { s.log with records := s.log.records ++ [⟨s.log.next, s.timebase, e⟩],
                                   next := s.log.next + 1 } } :=
  if_pos hroom

theorem appendLog_of_full {s : State} (hfull : 32 ≤ s.log.records.length) (e : LogEntry) :
    appendLog e s =
      raiseEvent eventLogOverwrite
        { s with log := { s.log with records := s.log.records.tail ++ [⟨s.log.next, s.timebase, e⟩],
                                     next := s.log.next + 1 } } := by
  rw [← List.drop_one]
  exact if_neg (Nat.not_lt.2 hfull)

/-! The log view (R168) -/

/-- LOG_POP in one expression: an empty list has no head and no tail. -/
theorem popLog_eq (l : FaultLog) : popLog l = { l with records := l.records.tail, view := l.records.head? } := by
  obtain ⟨records, next, view⟩ := l
  cases records <;> rfl

theorem readWord_logView (s : State) (i : Fin 7) : readWord s (8 + BitVec.ofNat 16 i.val) = viewWord s.log i.val := by
  fin_cases i <;> rfl

/-- The addresses of the log view are plain and hold no staging word, so a write to one is discarded (R179). -/
theorem logView_readOnly : ∀ i : Fin 7, plainAddress (8 + BitVec.ofNat 16 i.val) = true ∧
    stagingIndex (8 + BitVec.ofNat 16 i.val) = none := by
  decide

theorem writeRegister_logView (i : Fin 7) (w : Word) (s : State) :
    writeRegister (8 + BitVec.ofNat 16 i.val) w s = endFrame s := by
  obtain ⟨hplain, hstaging⟩ := logView_readOnly i
  rw [writeRegister_of_plain hplain, writeStaging, hstaging]

end Sys2Proof.Machine

namespace Sys2Proof.Proofs

open Sys2Proof.Machine

/-- Settles O16: the low half of the word names the bits, in the complement for EVENT_PENDING and as it is for
EVENT_ENABLE. -/
theorem eventWritesActByBit : Obligations.EventWritesActByBit := by
  intro w s hs
  refine ⟨⟨writePending w s, takes_next hs _, fun i => ?_, rfl, rfl, rfl⟩,
    ⟨writeEnable w s, takes_next hs _, fun i => ?_, rfl, rfl, rfl⟩⟩
  · simp [writePending, endFrame]
  · simp [writeEnable, endFrame]

/-- Settles O18: the view takes the head by `popLog_eq`, and its words are read through `readWord_logView`. -/
theorem logPopTakesTheOldest : Obligations.LogPopTakesTheOldest := by
  intro s hs
  have hlog : (commandLogPop s).log = { s.log with records := s.log.records.tail, view := s.log.records.head? } :=
    popLog_eq s.log
  refine ⟨commandLogPop s, takes_next hs _, ?_, ?_, ?_, fun r hr i => ?_, fun hempty i => ?_, rfl, rfl, fun i w => ?_⟩
  · rw [hlog]
  · rw [hlog]
  · rw [hlog]
  · rw [readWord_logView, viewWord, hlog, hr]
  · rw [readWord_logView, viewWord, hlog, hempty, List.head?_nil]
  · exact (takes_next hs _).trans (congrArg _ (writeRegister_logView i w s))

/-- Settles O19: the command clears the list and writes its result. -/
theorem logClearEmptiesTheList : Obligations.LogClearEmptiesTheList := fun _ hs => takes_next hs commandLogClear

/-- Settles O20: by whether the list is full. -/
theorem appendGoesToTheTail : Obligations.AppendGoesToTheTail :=
  fun e _ => ⟨fun hroom => appendLog_of_room hroom e, fun hfull => appendLog_of_full hfull e⟩

end Sys2Proof.Proofs
end

section
/-! SUPPORT. The order of the log and the places of the conditions (R164, R172): which changes of the log and of the
occurrence bits keep them. -/

namespace Sys2Proof.Machine

/-! The order of the log (R164) -/

/-- The order by position: each record's number lies below the next one by the number of records from it to the tail. -/
theorem FaultLog.ordered_iff (l : FaultLog) :
    l.ordered ↔ l.records.length ≤ 32 ∧
      ∀ (k : Nat) (hk : k < l.records.length),
        l.records[k].seq = l.next - BitVec.ofNat 16 (l.records.length - k) := by
  refine and_congr_right fun _ => ⟨fun h k hk => ?_, fun h => ?_⟩
  · have hat := congrArg (·[k]?) h
    simpa [hk] using hat
  · exact List.ext_getElem (by simp) fun k hk _ => by simpa using h k (by simpa using hk)

theorem FaultLog.ordered_empty (next : BitVec 16) (view : Option LogRec) :
    FaultLog.ordered { records := [], next := next, view := view } :=
  ⟨Nat.zero_le _, rfl⟩

/-- Without its oldest record an ordered list is ordered. -/
theorem FaultLog.ordered.tail {l : FaultLog} (h : l.ordered) (view : Option LogRec) :
    FaultLog.ordered { l with records := l.records.tail, view := view } := by
  rw [FaultLog.ordered_iff] at h ⊢
  obtain ⟨hlen, hseq⟩ := h
  refine ⟨by simp only [List.length_tail]; omega, fun k hk => ?_⟩
  simp only [List.length_tail] at hk ⊢
  rw [List.getElem_tail, hseq (k + 1) (by omega), Nat.sub_sub, Nat.add_comm 1 k]

/-- A record with the next number at the tail: every number lies one further below the next one. -/
theorem FaultLog.ordered.append {l : FaultLog} (h : l.ordered) (hroom : l.records.length < 32) (now : Tick)
    (e : LogEntry) :
    FaultLog.ordered { l with records := l.records ++ [⟨l.next, now, e⟩], next := l.next + 1 } := by
  rw [FaultLog.ordered_iff] at h ⊢
  obtain ⟨-, hseq⟩ := h
  refine ⟨by simp only [List.length_append, List.length_singleton]; omega, fun k hk => ?_⟩
  simp only [List.length_append, List.length_singleton] at hk ⊢
  have hshift (m : Nat) : l.next + 1 - BitVec.ofNat 16 (m + 1) = l.next - BitVec.ofNat 16 m := by
    rw [BitVec.ofNat_add]
    exact add_sub_add_right_eq_sub ..
  rw [Nat.sub_add_comm (Nat.le_of_lt_succ hk), hshift]
  rcases Nat.lt_or_eq_of_le (Nat.le_of_lt_succ hk) with hlt | rfl
  · rw [List.getElem_append_left hlt, hseq k hlt]
  · simp

/-- An append keeps the order, on a full list too, whose oldest record leaves first (R167). -/
theorem FaultLog.ordered.appendLog {s : State} (h : s.log.ordered) (e : LogEntry) : (appendLog e s).log.ordered := by
  rw [appendLog_log]
  split
  · exact h.append ‹_› s.timebase e
  · obtain ⟨hlen, -⟩ := (FaultLog.ordered_iff _).1 h
    exact (h.tail s.log.view).append (by simp only [List.length_tail]; omega) s.timebase e

theorem FaultLog.ordered.popLog {l : FaultLog} (h : l.ordered) : (popLog l).ordered := by
  rw [popLog_eq]
  exact h.tail _

/-! The places of the conditions (R172, R173) -/

theorem occurrencesAlone_iff (s : State) :
    OccurrencesAlone s ↔
      s.events.occ.getLsbD eventTargetDown = false ∧ s.events.occ.getLsbD eventLogNonempty = false := by
  refine ⟨fun h => ⟨getLsbD_of_and_eq_zero h (by decide), getLsbD_of_and_eq_zero h (by decide)⟩, fun ⟨hdown, hlog⟩ => ?_⟩
  have hmask : ∀ i : Fin 16, (0x5000#16).getLsbD i.val = true → i.val = eventTargetDown ∨ i.val = eventLogNonempty := by
    decide
  refine BitVec.eq_of_getLsbD_eq fun i hi => ?_
  rw [BitVec.ofNat_eq_ofNat, BitVec.ofNat_eq_ofNat, BitVec.getLsbD_and, BitVec.getLsbD_zero, Bool.and_eq_false_iff,
    or_iff_not_imp_right, Bool.not_eq_false]
  intro hi'
  rcases hmask ⟨i, hi⟩ hi' with rfl | rfl
  · exact hdown
  · exact hlog

/-- An event that is raised as an occurrence: one of the sixteen that is no condition (R172). -/
abbrev IsOccurrence (e : Nat) : Prop := e < 16 ∧ e ≠ eventTargetDown ∧ e ≠ eventLogNonempty

theorem isOccurrence_ofPart : IsOccurrence eventReshapeEnd ∧ IsOccurrence eventLogOverwrite := by decide

theorem isOccurrence_ofPort :
    ∀ h : Port, IsOccurrence (eventLinkUp h) ∧ IsOccurrence (eventLinkDown h) ∧ IsOccurrence (eventStall h) := by
  decide

theorem OccurrencesAlone.raiseEvent {s : State} (h : OccurrencesAlone s) {e : Nat} (he : IsOccurrence e) :
    OccurrencesAlone (raiseEvent e s) := by
  obtain ⟨h12, h14⟩ := (occurrencesAlone_iff s).1 h
  obtain ⟨he, hdown, hlog⟩ := he
  rw [occurrencesAlone_iff, getLsbD_occ_raiseEvent _ _ _ he, getLsbD_occ_raiseEvent _ _ _ he, h12, h14]
  simp [hdown.symm, hlog.symm]

theorem OccurrencesAlone.appendLog {s : State} (h : OccurrencesAlone s) (e : LogEntry) :
    OccurrencesAlone (appendLog e s) := by
  rcases Nat.lt_or_ge s.log.records.length 32 with hroom | hfull
  · rw [appendLog_of_room hroom]
    exact h
  · rw [appendLog_of_full hfull]
    exact OccurrencesAlone.raiseEvent h isOccurrence_ofPart.2

theorem OccurrencesAlone.writePending {s : State} (h : OccurrencesAlone s) (w : Word) :
    OccurrencesAlone (writePending w s) := by
  obtain ⟨h12, h14⟩ := (occurrencesAlone_iff s).1 h
  simp [occurrencesAlone_iff, Machine.writePending, endFrame, h12, h14]

/-! What they rest on -/

/-- From `s` to `t` an ordered log stays ordered, and the places of the conditions stay clear. -/
structure LogKept (s t : State) : Prop where
  log : LogOrdered s → LogOrdered t
  occ : OccurrencesAlone s → OccurrencesAlone t

theorem LogKept.refl (s : State) : LogKept s s := ⟨id, id⟩

theorem LogKept.trans {s t u : State} (h1 : LogKept s t) (h2 : LogKept t u) : LogKept s u :=
  ⟨h2.log ∘ h1.log, h2.occ ∘ h1.occ⟩

/-- They rest on the log and on the occurrence bits alone. -/
theorem LogKept.of_eq {s t : State} (hlog : t.log = s.log) (hocc : t.events.occ = s.events.occ) : LogKept s t :=
  ⟨fun h => by rwa [LogOrdered, hlog], fun h => by rwa [OccurrencesAlone, hocc]⟩

theorem logKept_foldl {α : Type} {f : State → α → State} (hf : ∀ s a, LogKept s (f s a)) (l : List α) (s : State) :
    LogKept s (l.foldl f s) :=
  foldl_keeps (P := LogKept s) (fun a b h => h.trans (hf a b)) l (.refl s)

theorem logKept_appendLog (e : LogEntry) (s : State) : LogKept s (appendLog e s) :=
  ⟨fun h => h.appendLog e, fun h => OccurrencesAlone.appendLog h e⟩

theorem logKept_raiseEvent {e : Nat} (he : IsOccurrence e) (s : State) : LogKept s (raiseEvent e s) :=
  ⟨id, fun h => OccurrencesAlone.raiseEvent h he⟩

end Sys2Proof.Machine
end

section
/-! SUPPORT. That every operation of the model keeps the log ordered and the places of the conditions clear, up to the
step. -/

namespace Sys2Proof.Machine

/-! The shared operations -/

theorem logKept_modPort (s : State) (h : Port) (f : PortState → PortState) : LogKept s (s.modPort h f) := .of_eq rfl rfl

theorem logKept_modTarget (s : State) (f : TargetLane → TargetLane) : LogKept s (s.modTarget f) := .of_eq rfl rfl

theorem logKept_reportAll (s : State) : LogKept s (reportAll s) := .of_eq rfl rfl

theorem logKept_setResult (c : BitVec 8) (r : CmdResult) (s : State) : LogKept s (setResult c r s) := .of_eq rfl rfl

/-- The end of a drain raises RESHAPE_END (R68). -/
theorem logKept_completeDrain (m : Mrs) (s : State) : LogKept s (completeDrain m s) :=
  LogKept.trans (t := { s with
    arb := { s.arb with configuredMrs := m, outcome := .done, reshape := .idle },
    target := { s.target with effMrs := s.target.maxReq.map m.smaller } })
    (.of_eq rfl rfl) (logKept_raiseEvent isOccurrence_ofPart.1 _)

theorem logKept_drainTest (s : State) : LogKept s (drainTest s) := by
  rcases drainTest_cases s with e | ⟨m, _, _, _, _, e⟩ <;> rw [e]
  · exact .refl s
  · exact logKept_completeDrain m s

theorem logKept_retire (h : Port) (i : Slot) (n : Nat) (o : SubOutcome) (s : State) : LogKept s (retire h i n o s) :=
  .of_eq (retire_log ..) (by rw [retire_events])

theorem logKept_retireAll (o : SubOutcome) (es : List (Port × Slot × Nat × Tag)) (s : State) :
    LogKept s (retireAll o es s) :=
  .of_eq (retireAll_log ..) (by rw [retireAll_events])

theorem logKept_lapse (t : Tag) (r : TagRec) (s : State) : LogKept s (lapse t r s) := by
  rw [lapse_eq]
  exact .of_eq rfl rfl

/-- A port reset logs the end of the session and raises LINK_DOWN (R137). -/
theorem logKept_portResetTaken (h : Port) (c : EndCause) (s : State) : LogKept s (portResetTaken h c s) := by
  obtain ⟨-, hdown, -⟩ := isOccurrence_ofPort h
  have hcleared (a : State) (tags : Vector (Option TagRec) 128) (b : Arbiter) (now : Tick) :
      LogKept a (({ a with tags := tags, arb := b } : State).modPort h (resetPort now c)) :=
    .of_eq rfl rfl
  exact (((logKept_appendLog ..).trans (logKept_raiseEvent hdown _)).trans (hcleared ..)).trans (logKept_drainTest _)

/-! Evaluations and grants -/

theorem Evaluated.logKept {s e : State} (h : Evaluated s e) : LogKept s e :=
  .of_eq (congrArg State.log h.frame :) (congrArg (fun a : State => a.events.occ) h.frame :)

theorem logKept_grantWith (h : Port) (x : Head) (tag : Option Tag) (s : State) : LogKept s (grantWith h x tag s) := by
  have hframe := granted_frame h x tag s
  have hgranted : LogKept s (granted h x tag s) :=
    .of_eq (congrArg State.log hframe :) (congrArg (fun a : State => a.events.occ) hframe :)
  exact hgranted.trans (logKept_drainTest _)

theorem logKept_issueGrantStep (s : State) : LogKept s (issueGrantStep s) := by
  have heval := (evaluated_evaluate s).logKept
  unfold issueGrantStep
  dsimp only
  split
  · exact heval
  · split
    · exact heval.trans (logKept_grantWith ..)
    · exact heval

theorem logKept_grantRetry (t : Tag) (r : TagRec) (d : Tick) (s : State) : LogKept s (grantRetry t r d s) :=
  .of_eq rfl rfl

theorem logKept_retryGrantStep (s : State) : LogKept s (retryGrantStep s) := by
  have heval := (evaluated_evaluate s).logKept
  unfold retryGrantStep
  dsimp only
  split
  · exact heval.trans (logKept_grantRetry ..)
  · exact heval

theorem logKept_startDrain (size : Mrs) (s : State) : LogKept s (startDrain size s) := by
  rw [startDrain_eq]
  exact LogKept.trans (t := drainStarted size s) (.of_eq rfl rfl) (logKept_drainTest _)

/-- A drain at its limit logs RESHAPE_ABORTED and raises RESHAPE_END (R69). -/
theorem logKept_takeDrainLimit (s : State) : LogKept s (takeDrainLimit s) := by
  unfold takeDrainLimit
  split
  · exact .refl s
  · split
    · refine LogKept.trans (LogKept.trans ?_ (logKept_appendLog ..)) (logKept_raiseEvent isOccurrence_ofPart.1 _)
      exact .of_eq rfl rfl
    · exact .refl s

/-! The target lane -/

theorem logKept_dropPost (h : Port) (i : Slot) (s : State) : LogKept s (dropPost h i s) := by
  unfold dropPost
  split
  · exact .refl s
  · exact (logKept_appendLog _ s).trans (logKept_modPort ..)

theorem logKept_failRecord (h : Port) (i : Slot) (s : State) : LogKept s (failRecord h i s) := by
  unfold failRecord
  split
  · exact .refl s
  · split
    · split
      · exact .of_eq rfl rfl
      · exact logKept_modPort ..
      · exact logKept_dropPost h i s
      · exact .refl s
    · exact .refl s

theorem logKept_failPorts (s : State) : LogKept s (failPorts s) := by
  refine logKept_foldl (fun a h => ?_) _ s
  split
  · exact logKept_foldl (fun b i => (logKept_failRecord h i b).trans (logKept_modPort ..)) _ a
  · exact .refl a

theorem logKept_releaseAll (s : State) : LogKept s (releaseAll s) := by
  have hreleased (a : State) :
      LogKept a { a with tags := Vector.replicate 128 none, arb := { a.arb with retryQ := [], dataHold := none } } :=
    .of_eq rfl rfl
  have hretired := (logKept_retireAll .linkDown (liveEntries s) s).trans (hreleased _)
  unfold releaseAll
  dsimp only
  split
  · exact hretired
  · exact hretired.trans (logKept_completeDrain ..)

theorem logKept_targetLoss (c : DownCause) (s : State) : LogKept s (targetLoss c s) := by
  have hnoticed (a : State) : LogKept a (a.modPorts (raiseNotice noticeTargetDown)) := .of_eq rfl rfl
  unfold targetLoss
  exact ((((logKept_modTarget ..).trans (logKept_releaseAll _)).trans (logKept_failPorts _)).trans
    (hnoticed _)).trans (logKept_appendLog ..)

theorem logKept_loseTarget (s : State) : LogKept s (loseTarget s) := by
  have hlevel := logKept_modTarget s fun l => { l with carrier := false }
  unfold loseTarget
  dsimp only
  split
  · exact hlevel.trans (logKept_modTarget ..)
  · exact hlevel.trans (logKept_targetLoss ..)
  · exact hlevel
  · exact hlevel

theorem logKept_downWith (c : DownCause) (s : State) : LogKept s (downWith c s) := by
  unfold downWith
  split
  · exact logKept_modTarget ..
  · exact logKept_targetLoss c s
  · exact .refl s
  · exact .refl s

theorem logKept_endStranded (m : Mrs) (h : Port) (i : Slot) (s : State) : LogKept s (endStranded m h i s) := by
  unfold endStranded
  split
  · exact .refl s
  · split
    · split
      · exact (logKept_dropPost ..).trans (logKept_modPort ..)
      · exact logKept_modPort ..
    · exact .refl s

theorem logKept_bringUp (hdr data : Nat) (m : Mrs) (s : State) : LogKept s (bringUp hdr data m s) := by
  have hstranded (a : State) : LogKept a (endAllStranded m a) :=
    logKept_foldl (fun b h => logKept_foldl (fun d i => logKept_endStranded m h i d) _ b) _ a
  have hnoticed (a : State) : LogKept a (a.modPorts (raiseNotice noticeTargetUp)) := .of_eq rfl rfl
  unfold bringUp
  exact ((((logKept_modTarget ..).trans (hstranded _)).trans (hnoticed _)).trans (logKept_modTarget ..)).trans
    (logKept_drainTest _)

theorem logKept_takeTrainAck (hdr data size : Nat) (s : State) : LogKept s (takeTrainAck hdr data size s) := by
  unfold takeTrainAck
  split
  · split
    · exact logKept_bringUp ..
    · exact logKept_modTarget ..
  · exact .refl s
  · exact .refl s
  · exact .refl s

theorem logKept_takeTcredit (hdr data : Nat) (s : State) : LogKept s (takeTcredit hdr data s) := by
  unfold takeTcredit
  split
  · exact logKept_modTarget ..
  · exact logKept_targetLoss ..

theorem logKept_detectTarget (s : State) : LogKept s (detectTarget s) := by
  unfold detectTarget
  dsimp only
  split <;> exact .of_eq rfl rfl

theorem logKept_takeTrainEnd (s : State) : LogKept s (takeTrainEnd s) := by
  unfold takeTrainEnd
  split
  · split
    · exact logKept_modTarget ..
    · exact .refl s
  · exact .refl s

theorem logKept_endTargetHoldoff (s : State) : LogKept s (endTargetHoldoff s) := by
  unfold endTargetHoldoff
  split
  · split
    · split <;> exact logKept_modTarget ..
    · exact .refl s
  · exact .refl s

/-! Completion parts -/

theorem logKept_acceptData (t : Tag) (r : TagRec) (d : Tick) (n : Nat) (s : State) :
    LogKept s (acceptData t r d n s) := by
  rw [acceptData_eq]
  exact .of_eq rfl rfl

theorem logKept_placeData (r : TagRec) (poisoned : Bool) (data : List Byte) (s : State) :
    LogKept s (placeData r poisoned data s) := by
  unfold placeData
  split
  · exact .refl s
  · dsimp only
    split <;> exact .of_eq rfl rfl

theorem logKept_freeTag (t : Tag) (s : State) : LogKept s (freeTag t s) := .of_eq rfl rfl

theorem logKept_livePart (t : Tag) (r : TagRec) (d : Tick) (q : Part) (s : State) :
    LogKept s (livePart t r d q s) := by
  unfold livePart
  split
  · exact ((logKept_lapse ..).trans (logKept_appendLog ..)).trans (logKept_retire ..)
  · unfold takeRetry
    split
    · exact .of_eq rfl rfl
    · exact ((logKept_freeTag t s).trans (logKept_appendLog ..)).trans (logKept_retire ..)
  · exact (logKept_freeTag t s).trans (logKept_retire ..)
  · rename_i poisoned _
    have haccept := (logKept_placeData r poisoned q.data s).trans (logKept_acceptData t r d q.data.length _)
    dsimp only
    split
    · exact haccept.trans (logKept_retire ..)
    · exact haccept

theorem logKept_orphanPart (t : Tag) (r : TagRec) (d : Tick) (q : Part) (s : State) :
    LogKept s (orphanPart t r d q s) := by
  unfold orphanPart
  split
  · exact (logKept_lapse ..).trans (logKept_appendLog ..)
  · exact logKept_freeTag t s
  · exact logKept_freeTag t s
  · exact logKept_acceptData ..

theorem logKept_takePart (t : Tag) (q : Part) (s : State) : LogKept s (takePart t q s) := by
  unfold takePart
  split
  · exact logKept_appendLog ..
  · rename_i r _
    have hrunning (d : Tick) : LogKept s (if r.orphaned then orphanPart t r d q s else livePart t r d q s) := by
      split
      · exact logKept_orphanPart ..
      · exact logKept_livePart ..
    split
    · exact logKept_appendLog ..
    · exact logKept_appendLog ..
    · exact hrunning _
    · exact hrunning _

/-! Host lanes and sessions -/

/-- An ATTACH that is accepted raises LINK_UP (R121). -/
theorem logKept_attachHandshake (h : Port) (mask : NoticeBits) (hdr data : Nat) (s : State) :
    LogKept s (attachHandshake h mask hdr data s) := by
  unfold attachHandshake
  split
  · exact logKept_modPort ..
  · obtain ⟨hup, -, -⟩ := isOccurrence_ofPort h
    exact (logKept_modPort ..).trans (logKept_raiseEvent hup _)

theorem logKept_takeAttach (h : Port) (mask : NoticeBits) (hdr data : Nat) (s : State) :
    LogKept s (takeAttach h mask hdr data s) := by
  unfold takeAttach
  split
  · exact logKept_attachHandshake ..
  · exact logKept_attachHandshake ..
  · exact (logKept_portResetTaken ..).trans (logKept_attachHandshake ..)
  · exact .refl s
  · exact .refl s

theorem logKept_portResetOnLane (h : Port) (s : State) : LogKept s (portResetOnLane h s) := by
  unfold portResetOnLane
  split
  · exact logKept_portResetTaken ..
  · exact logKept_modPort ..
  · exact logKept_modPort ..
  · exact .refl s
  · exact .refl s

theorem logKept_disableLane (h : Port) (s : State) : LogKept s (disableLane h s) := by
  unfold disableLane
  split
  · exact logKept_portResetTaken ..
  · exact logKept_modPort ..
  · exact .refl s
  · exact .refl s
  · exact .refl s

theorem logKept_failCheck (h : Port) (s : State) : LogKept s (failCheck h s) := by
  unfold failCheck
  split
  · exact logKept_modPort ..
  · exact logKept_modPort ..
  · exact logKept_portResetTaken ..
  · exact .refl s
  · exact .refl s

theorem logKept_loseCarrier (h : Port) (s : State) : LogKept s (loseCarrier h s) := by
  have hlevel := logKept_modPort s h fun p => { p with carrier := false }
  unfold loseCarrier
  dsimp only
  split
  · exact hlevel.trans (logKept_modPort ..)
  · exact hlevel.trans (logKept_modPort ..)
  · exact hlevel.trans (logKept_portResetTaken ..)
  · exact hlevel
  · exact hlevel

theorem logKept_endHoldoff (h : Port) (s : State) : LogKept s (endHoldoff h s) := by
  unfold endHoldoff
  split
  · exact logKept_modPort ..
  · exact .refl s

/-- A stall expiry logs STALL_ACTION and raises STALL, whatever its action (R142). -/
theorem logKept_takeStallExpiry (h : Port) (s : State) : LogKept s (takeStallExpiry h s) := by
  unfold takeStallExpiry
  split
  · obtain ⟨-, -, hstall⟩ := isOccurrence_ofPort h
    have hnoted (e : LogEntry) := (logKept_appendLog e s).trans (logKept_raiseEvent hstall _)
    dsimp only
    split
    · exact (hnoted _).trans (logKept_modPort ..)
    · exact (hnoted _).trans (logKept_portResetTaken ..)
    · exact (hnoted _).trans (logKept_portResetTaken ..)
  · exact .refl s

/-! Requests -/

theorem logKept_admitRequest (h : Port) (i : Slot) (r : ReqRec) (id : HostId) (addr : BitVec 48) (s : State) :
    LogKept s (admitRequest h i r id addr s) := by
  unfold admitRequest
  split
  · exact logKept_modPort ..
  · dsimp only
    split
    · exact logKept_modPort ..
    · split
      · exact logKept_modPort ..
      · split
        · exact (logKept_modPort ..).trans (logKept_appendLog ..)
        · exact logKept_modPort ..

theorem logKept_intake (h : Port) (kind : BitVec 8) (id : HostId) (cls : BitVec 2) (addr : BitVec 48) (len : Nat)
    (data : List Byte) (i : Slot) (blocks : List StageBlock) (s : State) :
    LogKept s (intake h kind id cls addr len data i blocks s) := by
  have hconsume := logKept_modPort s h (consume blocks data)
  unfold intake
  dsimp only
  split
  · exact (hconsume.trans (logKept_modPort ..)).trans (logKept_appendLog ..)
  · exact hconsume.trans (logKept_admitRequest ..)

theorem logKept_request {s t : State} {h : Port} {kind : BitVec 8} {id : HostId} {cls : BitVec 2}
    {addr : BitVec 48} {len : BitVec 16} {data : List Byte}
    (ht : exec (.request h kind id cls addr len data) s = .next t) : LogKept s t := by
  rcases execRequest_cases h kind id cls addr len data s with he | he | ⟨i, blocks, -, he⟩ | ⟨-, -, f, he⟩ <;>
    rw [he] at ht <;> cases ht
  · exact .refl s
  · exact ((logKept_modPort ..).trans (logKept_appendLog ..)).trans (logKept_reportAll _)
  · exact (logKept_intake ..).trans (logKept_reportAll _)

/-! Commands of the management port, and resets -/

theorem logKept_commandReshape (b : BitVec 16) (s : State) : LogKept s (commandReshape b s) := by
  unfold commandReshape
  split
  · exact logKept_setResult ..
  · split
    · exact logKept_setResult ..
    · exact (logKept_startDrain ..).trans (logKept_setResult ..)

theorem logKept_commandPortReset (a : BitVec 8) (s : State) : LogKept s (commandPortReset a s) := by
  unfold commandPortReset
  split
  · exact logKept_setResult ..
  · exact (logKept_portResetOnLane ..).trans (logKept_setResult ..)

theorem logKept_commandTargetReset (s : State) : LogKept s (commandTargetReset s) :=
  (logKept_downWith ..).trans (logKept_setResult ..)

/-- The records after the head keep their order (R168). -/
theorem logKept_commandLogPop (s : State) : LogKept s (commandLogPop s) := ⟨fun h => h.popLog, id⟩

theorem logKept_commandLogClear (s : State) : LogKept s (commandLogClear s) :=
  ⟨fun _ => FaultLog.ordered_empty .., id⟩

theorem logKept_commandTableFetch (a : BitVec 8) (b : BitVec 16) (s : State) :
    LogKept s (commandTableFetch a b s) := by
  unfold commandTableFetch
  split <;> exact .of_eq rfl rfl

theorem logKept_noticeChange (h : Port) (b : Bool) (s : State) : LogKept s (noticeChange h b s) := by
  unfold noticeChange
  split
  · exact logKept_modPort ..
  · exact .refl s

theorem logKept_commitTable {s t : State} {x : TableIndex} (ht : commitTable x s = some t) : LogKept s t := by
  cases x with
  | port h =>
    simp only [commitTable, commitPort] at ht
    split at ht
    · cases ht
    · rename_i p _
      split at ht
      · cases ht
        have hwritten : LogKept s (setPortPolicy h p s) := .of_eq rfl rfl
        refine LogKept.trans ?_ (logKept_noticeChange ..)
        split
        · exact hwritten
        · exact hwritten.trans (logKept_disableLane ..)
      · cases ht
  | window i =>
    simp only [commitTable, commitWindow] at ht
    split at ht
    · cases ht
      exact LogKept.trans (t := setWindow i _ s) (.of_eq rfl rfl) (logKept_noticeChange ..)
    · cases ht
  | global =>
    obtain ⟨g, -, rfl⟩ := Option.map_eq_some_iff.1 ht
    exact .of_eq rfl rfl

theorem logKept_commandTableCommit (a : BitVec 8) (b : BitVec 16) (s : State) :
    LogKept s (commandTableCommit a b s) := by
  unfold commandTableCommit
  split
  · exact logKept_setResult ..
  · split
    · exact logKept_setResult ..
    · exact (logKept_commitTable ‹_›).trans (logKept_setResult ..)

/-- A power-on or pin reset empties the log and clears the occurrence bits (R176, R189). -/
theorem logKept_hardReset (c : ResetCause) (s : State) : LogKept s (hardReset c s) :=
  ⟨fun _ => FaultLog.ordered_empty .., fun _ => BitVec.zero_and⟩

/-- A SOFT_RESET keeps the records and clears the occurrence bits (R176, R190). -/
theorem logKept_commandSoftReset (s : State) : LogKept s (commandSoftReset s) := ⟨id, fun _ => BitVec.zero_and⟩

theorem logKept_writePending (w : Word) (s : State) : LogKept s (writePending w s) :=
  ⟨id, fun h => OccurrencesAlone.writePending h w⟩

theorem logKept_takeCommandWord (w : Word) (s : State) : LogKept s (takeCommandWord w s) := by
  unfold takeCommandWord
  split
  · exact logKept_setResult ..
  · exact logKept_commandPortReset ..
  · exact (logKept_commandTargetReset s).trans (logKept_reportAll _)
  · exact logKept_commandSoftReset s
  · exact logKept_commandReshape ..
  · exact logKept_commandLogPop s
  · exact logKept_commandLogClear s
  · exact logKept_commandTableFetch ..
  · exact (logKept_commandTableCommit ..).trans (logKept_reportAll _)

theorem logKept_writeRegister (a : BitVec 16) (w : Word) (s : State) : LogKept s (writeRegister a w s) := by
  unfold writeRegister
  split
  · exact logKept_writePending w s
  · split
    · exact .of_eq rfl rfl
    · split
      · exact logKept_takeCommandWord w s
      · unfold writeStaging
        split <;> exact .of_eq rfl rfl

theorem logKept_invalidCommand (w : Word) (s : State) :
    LogKept s (if commandInRange w then s else answerInvalid (commandCode w) s) := by
  split
  · exact .refl s
  · exact logKept_setResult ..

/-! The expiries and the tick -/

theorem logKept_expireTag (t : Tag) (s : State) : LogKept s (expireTag t s) := by
  unfold expireTag
  split
  · exact .refl s
  · dsimp only
    split
    · exact .refl s
    · exact .of_eq rfl rfl
    · exact (logKept_lapse ..).trans (logKept_appendLog ..)
    · exact (logKept_lapse ..).trans (logKept_appendLog ..)

theorem logKept_takeDeadlines (s : State) : LogKept s (takeDeadlines s) :=
  ((logKept_foldl (fun a t => logKept_expireTag t a) _ s).trans (logKept_retireAll ..)).trans (logKept_drainTest _)

theorem logKept_takeBackoffEnds (s : State) : LogKept s (takeBackoffEnds s) := by
  refine logKept_foldl (fun a t => ?_) _ s
  unfold endBackoff
  split
  · exact .refl a
  · split
    · exact .of_eq rfl rfl
    · exact .refl a

theorem logKept_takeQuarantineEnds (s : State) : LogKept s (takeQuarantineEnds s) :=
  logKept_foldl (fun a t => logKept_freeTag t a) _ s

theorem logKept_closeTick (s : State) : LogKept s (closeTick s) :=
  ((((((((logKept_takeDeadlines s).trans (logKept_reportAll _)).trans (logKept_takeBackoffEnds _)).trans
    (logKept_takeQuarantineEnds _)).trans (logKept_takeDrainLimit _)).trans
    (logKept_foldl (fun a h => logKept_takeStallExpiry h a) allPorts _)).trans
    (logKept_foldl (fun a h => logKept_endHoldoff h a) allPorts _)).trans
    (logKept_endTargetHoldoff _)).trans (logKept_takeTrainEnd _)

theorem logKept_advance (s : State) : LogKept s (advance s) := .of_eq rfl rfl

/-! The step -/

theorem takes_logKept {s t : State} {f : State → State} (hf : ∀ a, LogKept a (f a)) (ht : takes f s = .next t) :
    LogKept s t :=
  takes_keeps (P := LogKept s) (fun a ha => ha.trans (hf a)) (.refl s) ht

/-- An event and the reports after it. -/
theorem takes_reported_logKept {s t : State} {f : State → State} (hf : ∀ a, LogKept a (f a))
    (ht : takes (fun a => reportAll (f a)) s = .next t) : LogKept s t :=
  takes_logKept (fun a => (hf a).trans (logKept_reportAll _)) ht

/-- An event of one port, and the reports after it. -/
theorem takes_port_logKept {s t : State} {h : Port} (f : State → PortState → PortState)
    (ht : takes (fun a => reportAll (a.modPort h (f a))) s = .next t) : LogKept s t :=
  takes_reported_logKept (fun a => logKept_modPort a h (f a)) ht

/-- A phase of an evaluation, or its grant, and the reports after it. -/
theorem takes_opportunity_logKept {s t : State} {f : State → State} (hf : ∀ a, LogKept a (f a))
    (ht : takes (fun a => reportAll (atOpportunity f a)) s = .next t) : LogKept s t :=
  takes_reported_logKept (fun a => atOpportunity_keeps (P := LogKept a) (fun b hb => hb.trans (hf b)) (.refl a)) ht

/-- An event taken under a condition. -/
theorem logKept_when (c : State → Bool) {f : State → State} (hf : ∀ a, LogKept a (f a)) (s : State) :
    LogKept s (if c s then f s else s) := by
  split
  · exact hf s
  · exact .refl s

/-- Every command keeps the log ordered and the places of the conditions clear. -/
theorem exec_logKept {c : Instr} {s t : State} (ht : exec c s = .next t) : LogKept s t := by
  cases c with
  | tickEvent => exact takes_logKept (fun a => (logKept_closeTick a).trans (logKept_advance _)) ht
  | deadlineExpiry => exact takes_reported_logKept logKept_takeDeadlines ht
  | backoffEnd => exact takes_logKept logKept_takeBackoffEnds ht
  | quarantineEnd => exact takes_logKept logKept_takeQuarantineEnds ht
  | drainLimitExpiry => exact takes_logKept logKept_takeDrainLimit ht
  | drainComplete => exact takes_logKept logKept_drainTest ht
  | stallExpiry h => exact takes_logKept (logKept_takeStallExpiry h) ht
  | hostCarrierDetect h =>
    cases ht
    split <;> exact logKept_modPort ..
  | hostCarrierLoss h =>
    cases ht
    split
    · exact logKept_modPort ..
    · exact logKept_loseCarrier h s
  | hostCheckFailure h => exact takes_logKept (logKept_failCheck h) ht
  | hostHoldoffEnd h => exact takes_logKept (logKept_endHoldoff h) ht
  | attach h mask hdr data => exact takes_reported_logKept (logKept_takeAttach h mask hdr.toNat data.toNat) ht
  | request h kind id cls addr len data => exact logKept_request ht
  | credit h hdr data =>
    exact takes_logKept (logKept_when (fun a => (a.port h).isActive) fun a =>
      (logKept_modPort a h (takeCredit hdr.toNat data.toNat)).trans (logKept_reportAll _)) ht
  | noticeAck h bits =>
    exact takes_logKept (logKept_when (fun a => (a.port h).isActive) fun a =>
      (logKept_modPort a h (acknowledge bits)).trans (logKept_reportAll _)) ht
  | hostUnusablePacket h bytes => exact takes_logKept .refl ht
  | attachAnswerStart h => exact takes_port_logKept (fun _ => startIf .answer startAnswer) ht
  | grantTransmissionStart h => exact takes_port_logKept (fun _ => startIf .grant startGrant) ht
  | noticeTransmissionStart h => exact takes_port_logKept (fun _ => startIf .notice startNotice) ht
  | responseTransmissionStart h => exact takes_port_logKept (fun a => startIf .response (startResponse a.buffer)) ht
  | responseTransmissionEnd h => exact takes_port_logKept (fun _ => endResponse) ht
  | grantTransmissionEnd h => exact takes_port_logKept (fun _ => endGrant) ht
  | hostTransmissionEnd h => exact takes_port_logKept (fun _ => endOther) ht
  | targetCarrierDetect =>
    cases ht
    split
    · exact logKept_modTarget ..
    · exact logKept_detectTarget s
  | targetCarrierLoss =>
    cases ht
    split
    · exact logKept_modTarget ..
    · exact (logKept_loseTarget s).trans (logKept_reportAll _)
  | targetCheckFailure => exact takes_reported_logKept (logKept_downWith .protocol) ht
  | trainAck hdr data size => exact takes_reported_logKept (logKept_takeTrainAck hdr.toNat data.toNat size.toNat) ht
  | trainEndTickExpiry => exact takes_logKept logKept_takeTrainEnd ht
  | targetHoldoffEnd => exact takes_logKept logKept_endTargetHoldoff ht
  | tcpl tag status remaining data =>
    exact takes_logKept (logKept_when State.targetUp fun a =>
      ((logKept_takePart tag ⟨status, remaining.toNat, data⟩ a).trans (logKept_drainTest _)).trans
        (logKept_reportAll _)) ht
  | tcredit hdr data =>
    exact takes_logKept (logKept_when State.targetUp fun a =>
      (logKept_takeTcredit hdr.toNat data.toNat a).trans (logKept_reportAll _)) ht
  | targetUnusablePacket bytes => exact takes_logKept .refl ht
  | treqTransmissionEnd => exact takes_logKept (fun a => logKept_modTarget a endTreq) ht
  | issueGrant => exact takes_opportunity_logKept logKept_issueGrantStep ht
  | retryGrant => exact takes_opportunity_logKept logKept_retryGrantStep ht
  | claimEntry =>
    exact takes_opportunity_logKept (fun a => ((evaluated_ceilingRetires a).trans (evaluated_enterClaims _)).logKept) ht
  | dataCreditHold => exact takes_opportunity_logKept (fun a => (evaluated_evaluate a).logKept) ht
  | readCeilingRetire => exact takes_opportunity_logKept (fun a => (evaluated_ceilingRetires a).logKept) ht
  | fenceReady h => exact takes_port_logKept (fun _ => fenceTest) ht
  | eventPendingWrite w => exact takes_logKept (logKept_writePending w) ht
  | eventEnableWrite w => exact takes_logKept (f := writeEnable w) (fun _ => .of_eq rfl rfl) ht
  | registerWrite addr w => exact takes_logKept (logKept_writeRegister addr w) ht
  | writeFrameDiscard => exact takes_logKept (f := endFrame) (fun _ => .of_eq rfl rfl) ht
  | invalidCommand w => exact takes_logKept (logKept_invalidCommand w) ht
  | portReset a => exact takes_logKept (logKept_commandPortReset a) ht
  | targetReset => exact takes_reported_logKept logKept_commandTargetReset ht
  | softReset => exact takes_logKept logKept_commandSoftReset ht
  | reshape b => exact takes_logKept (logKept_commandReshape b) ht
  | logPop => exact takes_logKept logKept_commandLogPop ht
  | logClear => exact takes_logKept logKept_commandLogClear ht
  | tableFetch a b => exact takes_logKept (logKept_commandTableFetch a b) ht
  | tableCommit a b => exact takes_reported_logKept (logKept_commandTableCommit a b) ht
  | powerOnReset =>
    cases ht
    split
    · exact .refl s
    · exact logKept_hardReset ..
  | pinReset =>
    cases ht
    split
    · exact .refl s
    · exact logKept_hardReset ..
  | resetHoldBegin c => exact takes_logKept (f := beginHold c) (fun _ => .of_eq rfl rfl) ht

end Sys2Proof.Machine

namespace Sys2Proof.Proofs

open Sys2Proof.Machine

/-- Settles O11: every command keeps both; the queue of commands is no part of what they rest on. -/
theorem stepKeepsLogOrdered : Obligations.StepKeepsLogOrdered := by
  intro s t ht
  have hkept : LogKept s t := by
    unfold step at ht
    split at ht
    · cases ht
      exact .refl s
    · rename_i rest _
      have hrest : LogKept s { s with pending := rest } := .of_eq rfl rfl
      exact hrest.trans (exec_logKept ht)
  exact ⟨hkept.log, hkept.occ⟩

end Sys2Proof.Proofs
end

/-! Proofs about the management port and the policy (10): the ranges of the policy records, the commits and fetches of the
tables, the register writes, the reset hold and the part resets. -/

section
/-! SUPPORT. The ranges of the policy records (R184 to R187): what a commit writes has passed the validation of its table,
and no other command but a part reset writes a policy. -/

namespace Sys2Proof.Machine

/-! Staged records that pass validation (R185 to R187) -/

theorem field_lt (w : Word) (lo n : Nat) : field w lo n < 2 ^ n := Nat.mod_lt _ (Nat.two_pow_pos n)

theorem stagedEntry_eq_some {w : Word} {lo : Nat} {b : Bool} {st : HostStatus} :
    stagedEntry w lo b = some st ↔ HostStatus.ofCode (field w lo 4) = some st ∧ entryAllowed b st = true :=
  Option.filter_eq_some_iff

/-- Every entry of a staged error map is read as one that R89 allows. -/
theorem allowed_of_stagedErrorMap {w : Word} {m : ErrorMap} (hm : stagedErrorMap w = some m) : m.allowed := by
  simp only [stagedErrorMap, Option.bind_eq_bind, Option.bind_eq_some_iff, stagedEntry_eq_some] at hm
  obtain ⟨_, ⟨-, hunsupported⟩, _, ⟨-, haborted⟩, _, ⟨-, hpoisoned⟩, _, ⟨-, htimeout⟩, _, ⟨-, hlinkDown⟩,
    _, ⟨-, hmalformed⟩, _, ⟨-, hretryExhausted⟩, hmap⟩ := hm
  cases hmap
  exact ⟨hunsupported, haborted, hpoisoned, htimeout, hlinkDown, hmalformed, hretryExhausted⟩

/-- The fields of a staged port record, as they are read before the range test (R197). -/
def stagedPortFields (v : Vector Word 16) (action : StallAction) (m : ErrorMap) : PortPolicy :=
  { enabled := bitAt v[0] 0, floor := field v[0] 8 6, ceiling := field v[0] 16 8, blockCeiling := field v[1] 0 9,
    weight := field v[1] 16 4, timeouts := #v[field v[2] 0 16, field v[2] 16 16, field v[3] 0 16, field v[3] 16 16],
    stallWindow := field v[4] 0 12, stallAction := action, behaviour := if bitAt v[4] 20 then .fail else .hold,
    errorMap := m }

theorem stagedPort_eq_some {v : Vector Word 16} {p : PortPolicy} :
    stagedPort v = some p ↔
      stagedErrorMap v[5] = some p.errorMap ∧ StallAction.ofCode (field v[4] 16 2) = some p.stallAction ∧
        stagedPortFields v p.stallAction p.errorMap = p ∧ p.inRange = true := by
  have hread : stagedPort v = (stagedErrorMap v[5]).bind fun m => (StallAction.ofCode (field v[4] 16 2)).bind fun a =>
      if (stagedPortFields v a m).inRange then some (stagedPortFields v a m) else none := rfl
  simp only [hread, Option.bind_eq_some_iff, Option.ite_none_right_eq_some, Option.some.injEq]
  constructor
  · rintro ⟨m, hm, a, ha, hrange, rfl⟩
    exact ⟨hm, ha, rfl, hrange⟩
  · rintro ⟨hm, ha, hp, hrange⟩
    exact ⟨_, hm, _, ha, by rwa [hp], hp⟩

theorem stagedGlobal_inRange {v : Vector Word 16} {g : GlobalPolicy} (hg : stagedGlobal v = some g) : g.inRange := by
  simp only [stagedGlobal, Option.ite_none_right_eq_some, Option.some.injEq] at hg
  obtain ⟨⟨hbackoff, hlimit⟩, rfl⟩ := hg
  exact ⟨Nat.le_of_lt_succ (field_lt v[0] 0 16), hbackoff, Nat.le_of_lt_succ (field_lt v[0] 16 8),
    Nat.le_of_lt_succ (field_lt v[0] 24 4), hlimit, Nat.le_of_lt_succ (field_lt v[1] 0 16)⟩

/-! Commits (R183 to R188) -/

theorem setPortPolicy_portPolicy (h g : Port) (p : PortPolicy) (s : State) :
    (setPortPolicy h p s).portPolicy g = if g = h then p else s.portPolicy g := by
  have hval : h.val = g.val ↔ g = h := by rw [Fin.ext_iff, eq_comm]
  simp only [setPortPolicy, State.portPolicy, Vector.getElem_set, hval]

/-- A port record is committed where its staged form and the floors pass, and is then written whole; the port's lane and
its notice follow (R185, R188). -/
theorem commitPort_eq_some {h : Port} {s t : State} :
    commitPort h s = some t ↔
      ∃ p, stagedPort s.mgmt.staging = some p ∧ floorsFit s h p.floor = true ∧
        t = noticeChange h (p != s.portPolicy h)
          (if p.enabled then setPortPolicy h p s else disableLane h (setPortPolicy h p s)) := by
  unfold commitPort
  cases stagedPort s.mgmt.staging with
  | none => simp
  | some p =>
    simp only [Option.ite_none_right_eq_some, Option.some.injEq, exists_eq_left']
    rw [eq_comm (a := t)]

theorem commitWindow_eq_some {i : Fin 16} {s t : State} :
    commitWindow i s = some t ↔
      (stagedWindow s.mgmt.staging).valid = true ∧
        t = noticeChange (windowPort i) (stagedWindow s.mgmt.staging != s.policy.windows[i.val])
          (setWindow i (stagedWindow s.mgmt.staging) s) := by
  simp only [commitWindow, Option.ite_none_right_eq_some, Option.some.injEq]
  rw [eq_comm (a := t)]

theorem commitGlobal_eq_some {s t : State} :
    commitGlobal s = some t ↔ ∃ g, stagedGlobal s.mgmt.staging = some g ∧ t = setGlobal g s := by
  simp only [commitGlobal, Option.map_eq_some_iff, eq_comm (b := t)]

/-! Which changes of the policy keep the ranges -/

section

variable {s : State} (hs : PolicyInRange s)
include hs

theorem PolicyInRange.of_policy_eq {t : State} (ht : t.policy = s.policy) : PolicyInRange t := by
  unfold PolicyInRange State.portPolicy at hs ⊢
  rwa [ht]

theorem policyInRange_setPortPolicy {h : Port} {p : PortPolicy} (hrange : p.inRange = true) (hmap : p.errorMap.allowed)
    (hfit : floorsFit s h p.floor = true) : PolicyInRange (setPortPolicy h p s) := by
  obtain ⟨hports, -, hwindows, hglobal⟩ := hs
  refine ⟨fun g => ?record, ?floors, hwindows, hglobal⟩
  case record =>
    rw [setPortPolicy_portPolicy]
    split
    · exact ⟨hrange, hmap⟩
    · exact hports g
  case floors =>
    have hothers : (allPorts.filter (· != h)).map (fun g => ((setPortPolicy h p s).portPolicy g).floor) =
        (allPorts.filter (· != h)).map fun g => (s.portPolicy g).floor :=
      List.map_congr_left fun g hg => by
        rw [setPortPolicy_portPolicy, if_neg (by simpa using (List.mem_filter.1 hg).2)]
    rw [sum_allPorts_split _ h, hothers, setPortPolicy_portPolicy, if_pos rfl]
    exact of_decide_eq_true hfit

theorem policyInRange_setWindow (i : Fin 16) {w : Window} (hw : w.valid = true) : PolicyInRange (setWindow i w s) := by
  obtain ⟨hports, hfloors, hwindows, hglobal⟩ := hs
  refine ⟨hports, hfloors, fun j => ?_, hglobal⟩
  show ((s.policy.windows.set i.val w)[j.val]).valid = true
  rw [Vector.getElem_set]
  split
  · exact hw
  · exact hwindows j

theorem policyInRange_setGlobal {g : GlobalPolicy} (hg : g.inRange) : PolicyInRange (setGlobal g s) := by
  obtain ⟨hports, hfloors, hwindows, -⟩ := hs
  exact ⟨hports, hfloors, hwindows, hg⟩

/-- A commit that is accepted keeps the ranges: each table validates what it writes (R185 to R187). -/
theorem commitTable_policyInRange {t : State} {x : TableIndex} (ht : commitTable x s = some t) : PolicyInRange t := by
  cases x with
  | port h =>
    obtain ⟨p, hp, hfit, rfl⟩ := commitPort_eq_some.1 ht
    obtain ⟨hmap, -, -, hrange⟩ := stagedPort_eq_some.1 hp
    refine (policyInRange_setPortPolicy hs hrange (allowed_of_stagedErrorMap hmap) hfit).of_policy_eq ?_
    refine (globalsKept_noticeChange ..).policy.trans ?_
    split
    · rfl
    · exact (globalsKept_disableLane h _).policy
  | window i =>
    obtain ⟨hw, rfl⟩ := commitWindow_eq_some.1 ht
    exact (policyInRange_setWindow hs i hw).of_policy_eq (globalsKept_noticeChange ..).policy
  | global =>
    obtain ⟨g, hg, rfl⟩ := commitGlobal_eq_some.1 ht
    exact policyInRange_setGlobal hs (stagedGlobal_inRange hg)

theorem commandTableCommit_policyInRange (a : BitVec 8) (b : BitVec 16) :
    PolicyInRange (commandTableCommit a b s) := by
  unfold commandTableCommit
  split
  · exact hs.of_policy_eq rfl
  · split
    · exact hs.of_policy_eq rfl
    · rename_i hcommit
      exact (commitTable_policyInRange hs hcommit).of_policy_eq rfl

end

/-- The default records lie in their ranges, so every part reset leaves them there (R184, R189). -/
theorem policyInRange_reset : PolicyInRange State.reset := by decide +kernel

theorem takeCommandWord_policyInRange {s : State} (hs : PolicyInRange s) (w : Word) :
    PolicyInRange (takeCommandWord w s) := by
  unfold takeCommandWord
  split
  · exact hs.of_policy_eq rfl
  · exact hs.of_policy_eq (globalsKept_commandPortReset ..).policy
  · exact hs.of_policy_eq (globalsKept_commandTargetReset s).policy
  · exact policyInRange_reset.of_policy_eq rfl
  · exact hs.of_policy_eq (globalsKept_commandReshape ..).policy
  · exact hs.of_policy_eq rfl
  · exact hs.of_policy_eq rfl
  · exact hs.of_policy_eq (globalsKept_commandTableFetch ..).policy
  · exact (commandTableCommit_policyInRange hs ..).of_policy_eq rfl

/-- A register write keeps the ranges: only COMMAND can start a commit or a reset (R179, R180). -/
theorem writeRegister_policyInRange {s : State} (hs : PolicyInRange s) (a : BitVec 16) (w : Word) :
    PolicyInRange (writeRegister a w s) := by
  unfold writeRegister
  split
  · exact hs.of_policy_eq rfl
  · split
    · exact hs.of_policy_eq rfl
    · split
      · exact takeCommandWord_policyInRange hs w
      · unfold writeStaging
        split <;> exact hs.of_policy_eq rfl

/-! Every command -/

theorem takes_policyInRange {f : State → State} (hf : ∀ a, PolicyInRange a → PolicyInRange (f a)) {s t : State}
    (hs : PolicyInRange s) (ht : takes f s = .next t) : PolicyInRange t :=
  takes_keeps hf hs ht

/-- No command but a commit, a part reset and a register write, which can stand for either, writes the policy (R184); this
holds whatever operands it carries. -/
theorem exec_policy {c : Instr} {s t : State} (ht : exec c s = .next t) (hpower : c ≠ .powerOnReset)
    (hpin : c ≠ .pinReset) (hsoft : c ≠ .softReset) (hcommit : ∀ a b, c ≠ .tableCommit a b)
    (hwrite : ∀ a w, c ≠ .registerWrite a w) : t.policy = s.policy := by
  cases hwf : c.wellFormed with
  | true => exact (exec_ownWrite hwf ht hpower hpin hsoft).policy.trans (ownWrite_policy s t hcommit)
  | false =>
    refine GlobalsKept.policy ?_
    cases c with
    | hostUnusablePacket h bytes => exact takes_globalsKept .refl ht
    | targetUnusablePacket bytes => exact takes_globalsKept .refl ht
    | invalidCommand w => exact takes_globalsKept (globalsKept_invalidCommand w) ht
    | portReset a => exact takes_globalsKept (globalsKept_commandPortReset a) ht
    | reshape b => exact takes_globalsKept (globalsKept_commandReshape b) ht
    | tableFetch a b => exact takes_globalsKept (globalsKept_commandTableFetch a b) ht
    | registerWrite a w => exact absurd rfl (hwrite a w)
    | tableCommit a b => exact absurd rfl (hcommit a b)
    | _ => cases hwf

theorem exec_policyInRange {c : Instr} {s t : State} (hs : PolicyInRange s) (ht : exec c s = .next t) :
    PolicyInRange t := by
  cases c with
  | tableCommit a b =>
    exact takes_policyInRange (f := fun u => reportAll (commandTableCommit a b u))
      (fun _ hu => (commandTableCommit_policyInRange hu a b).of_policy_eq rfl) hs ht
  | registerWrite a w =>
    exact takes_policyInRange (f := writeRegister a w) (fun _ hu => writeRegister_policyInRange hu a w) hs ht
  | softReset =>
    exact takes_policyInRange (f := commandSoftReset) (fun _ _ => policyInRange_reset.of_policy_eq rfl) hs ht
  | powerOnReset =>
    cases ht
    split
    · exact hs
    · exact policyInRange_reset.of_policy_eq rfl
  | pinReset =>
    cases ht
    split
    · exact hs
    · exact policyInRange_reset.of_policy_eq rfl
  | _ => exact hs.of_policy_eq (exec_policy ht nofun nofun nofun nofun nofun)

end Sys2Proof.Machine

namespace Sys2Proof.Proofs

open Sys2Proof.Machine

/-- Settles O12: a commit validates what it writes, the part resets write the default records, and every other command
leaves the policy. -/
theorem stepKeepsPolicyInRange : Obligations.StepKeepsPolicyInRange := by
  intro s t hs ht
  unfold step at ht
  split at ht
  · cases ht
    exact hs
  · rename_i rest _
    exact exec_policyInRange (s := { s with pending := rest }) (hs.of_policy_eq rfl) ht

end Sys2Proof.Proofs
end

section
/-! SUPPORT. The staging layouts (11.8): each field that a record is staged in is read back from its place. -/

namespace Sys2Proof.Machine

/-! Fields of staged words -/

theorem field_ofNat (x lo n : Nat) : field (BitVec.ofNat 32 x) lo n = x % 2 ^ 32 / 2 ^ lo % 2 ^ n := by
  rw [field, BitVec.toNat_ofNat]

/-- Two values of 16 bits in one word. -/
theorem field_halves {a b : Nat} (ha : a ≤ 65535) (hb : b ≤ 65535) :
    field (BitVec.ofNat 32 (place 0 a + place 16 b)) 0 16 = a ∧
      field (BitVec.ofNat 32 (place 0 a + place 16 b)) 16 16 = b := by
  simp only [field_ofNat, place]
  omega

/-- A staged word is the entry of its place (R182). -/
theorem getElem_stagingOf {ws : List Nat} {i x : Nat} (hi : i < 16) (hx : ws[i]? = some x) :
    (stagingOf ws)[i] = BitVec.ofNat 32 x := by
  simp [stagingOf, hx]

theorem bit_lt (b : Bool) : bit b < 2 := by
  cases b <;> decide

/-- A bit is read back as the Boolean it was placed for. -/
theorem bitAt_of_field {w : Word} {i : Nat} {b : Bool} (h : field w i 1 = bit b) : bitAt w i = b := by
  rw [bitAt, h]
  cases b <;> rfl

/-! Codes -/

theorem HostStatus.ofCode_code (st : HostStatus) : HostStatus.ofCode st.code = some st := by
  cases st <;> rfl

theorem HostStatus.code_lt (st : HostStatus) : st.code < 16 := by
  cases st <;> decide

theorem StallAction.ofCode_code (a : StallAction) : StallAction.ofCode a.code = some a := by
  cases a <;> rfl

theorem StallAction.code_lt (a : StallAction) : a.code < 4 := by
  cases a <;> decide

theorem stagedEntry_of_code {w : Word} {lo : Nat} {b : Bool} {st : HostStatus} (hcode : field w lo 4 = st.code)
    (hallowed : entryAllowed b st = true) : stagedEntry w lo b = some st :=
  stagedEntry_eq_some.2 ⟨hcode ▸ st.ofCode_code, hallowed⟩

/-! A port record -/

/-- The ranges of a port record, as propositions (R184, R185). -/
theorem PortPolicy.inRange_iff {p : PortPolicy} :
    p.inRange = true ↔ p.floor ≤ 32 ∧ (1 ≤ p.ceiling ∧ p.ceiling ≤ 128) ∧ p.floor ≤ p.ceiling ∧
      (1 ≤ p.blockCeiling ∧ p.blockCeiling ≤ 256) ∧ (1 ≤ p.weight ∧ p.weight ≤ 8) ∧
      (∀ (i : Nat) (hi : i < 4), 1 ≤ p.timeouts[i] ∧ p.timeouts[i] ≤ 65535) ∧ p.stallWindow ≤ 4095 := by
  have htimeouts : (p.timeouts.toList.all fun t => decide (1 ≤ t) && decide (t ≤ 65535)) = true ↔
      ∀ (i : Nat) (hi : i < 4), 1 ≤ p.timeouts[i] ∧ p.timeouts[i] ≤ 65535 := by
    simp
  simp only [PortPolicy.inRange, Bool.and_eq_true, decide_eq_true_eq, htimeouts, and_assoc]

/-- A word that holds an allowed map's seven codes in their places is read as the map (R185, 11.8). -/
theorem stagedErrorMap_of_fields {w : Word} {m : ErrorMap} (hm : m.allowed)
    (h0 : field w 0 4 = m.unsupported.code) (h1 : field w 4 4 = m.aborted.code) (h2 : field w 8 4 = m.poisoned.code)
    (h3 : field w 12 4 = m.timeout.code) (h4 : field w 16 4 = m.linkDown.code) (h5 : field w 20 4 = m.malformed.code)
    (h6 : field w 24 4 = m.retryExhausted.code) : stagedErrorMap w = some m := by
  obtain ⟨hunsupported, haborted, hpoisoned, htimeout, hlinkDown, hmalformed, hretryExhausted⟩ := hm
  simp only [stagedErrorMap, stagedEntry_of_code h0 hunsupported, stagedEntry_of_code h1 haborted,
    stagedEntry_of_code h2 hpoisoned, stagedEntry_of_code h3 htimeout, stagedEntry_of_code h4 hlinkDown,
    stagedEntry_of_code h5 hmalformed, stagedEntry_of_code h6 hretryExhausted]
  rfl

/-- The seven codes placed by any layout `f` (11.8). -/
theorem ErrorMap.sum_codes (m : ErrorMap) (f : Nat → Nat → Nat) : (m.codes.zipIdx.map fun (c, i) => f i c).sum =
    f 0 m.unsupported.code + (f 1 m.aborted.code + (f 2 m.poisoned.code + (f 3 m.timeout.code +
      (f 4 m.linkDown.code + (f 5 m.malformed.code + f 6 m.retryExhausted.code))))) := by
  simp [ErrorMap.codes]

theorem stagedErrorMap_codes {m : ErrorMap} (hm : m.allowed) :
    stagedErrorMap (BitVec.ofNat 32 (m.codes.zipIdx.map fun (c, i) => place (4 * i) c).sum) = some m := by
  have h0 := m.unsupported.code_lt
  have h1 := m.aborted.code_lt
  have h2 := m.poisoned.code_lt
  have h3 := m.timeout.code_lt
  have h4 := m.linkDown.code_lt
  have h5 := m.malformed.code_lt
  have h6 := m.retryExhausted.code_lt
  rw [m.sum_codes fun i c => place (4 * i) c]
  refine stagedErrorMap_of_fields hm ?_ ?_ ?_ ?_ ?_ ?_ ?_ <;> simp only [field_ofNat, place] <;> omega

section

variable (p : PortPolicy)

theorem stagePort_word0 : (stagePort p)[0] =
    BitVec.ofNat 32 (place 0 (bit p.enabled) + place 8 p.floor + place 16 p.ceiling) :=
  getElem_stagingOf (by decide) rfl

theorem stagePort_word1 : (stagePort p)[1] = BitVec.ofNat 32 (place 0 p.blockCeiling + place 16 p.weight) :=
  getElem_stagingOf (by decide) rfl

theorem stagePort_word2 : (stagePort p)[2] = BitVec.ofNat 32 (place 0 p.timeouts[0] + place 16 p.timeouts[1]) :=
  getElem_stagingOf (by decide) rfl

theorem stagePort_word3 : (stagePort p)[3] = BitVec.ofNat 32 (place 0 p.timeouts[2] + place 16 p.timeouts[3]) :=
  getElem_stagingOf (by decide) rfl

theorem stagePort_word4 : (stagePort p)[4] =
    BitVec.ofNat 32 (place 0 p.stallWindow + place 16 p.stallAction.code + place 20 (bit (p.behaviour == .fail))) :=
  getElem_stagingOf (by decide) rfl

theorem stagePort_word5 : (stagePort p)[5] =
    BitVec.ofNat 32 (p.errorMap.codes.zipIdx.map fun (c, i) => place (4 * i) c).sum :=
  getElem_stagingOf (by decide) rfl

end

section

variable {p : PortPolicy} (hp : p.inRange = true)
include hp

theorem stagePort_fields0 : bitAt (stagePort p)[0] 0 = p.enabled ∧ field (stagePort p)[0] 8 6 = p.floor ∧
    field (stagePort p)[0] 16 8 = p.ceiling := by
  obtain ⟨hfloor, ⟨-, hceiling⟩, -⟩ := PortPolicy.inRange_iff.1 hp
  have hbit := bit_lt p.enabled
  refine ⟨bitAt_of_field ?_, ?_, ?_⟩ <;> simp only [stagePort_word0, field_ofNat, place] <;> omega

theorem stagePort_fields1 : field (stagePort p)[1] 0 9 = p.blockCeiling ∧ field (stagePort p)[1] 16 4 = p.weight := by
  obtain ⟨-, -, -, ⟨-, hblocks⟩, ⟨-, hweight⟩, -⟩ := PortPolicy.inRange_iff.1 hp
  refine ⟨?_, ?_⟩ <;> simp only [stagePort_word1, field_ofNat, place] <;> omega

theorem stagePort_timeouts :
    #v[field (stagePort p)[2] 0 16, field (stagePort p)[2] 16 16, field (stagePort p)[3] 0 16,
      field (stagePort p)[3] 16 16] = p.timeouts := by
  obtain ⟨-, -, -, -, -, htimeouts, -⟩ := PortPolicy.inRange_iff.1 hp
  obtain ⟨-, h0⟩ := htimeouts 0 (by decide)
  obtain ⟨-, h1⟩ := htimeouts 1 (by decide)
  obtain ⟨-, h2⟩ := htimeouts 2 (by decide)
  obtain ⟨-, h3⟩ := htimeouts 3 (by decide)
  obtain ⟨hclass0, hclass1⟩ := field_halves h0 h1
  obtain ⟨hclass2, hclass3⟩ := field_halves h2 h3
  rw [stagePort_word2, stagePort_word3, hclass0, hclass1, hclass2, hclass3]
  ext i hi
  match i, hi with
  | 0, _ => rfl
  | 1, _ => rfl
  | 2, _ => rfl
  | 3, _ => rfl

theorem stagePort_fields4 : field (stagePort p)[4] 0 12 = p.stallWindow ∧
    field (stagePort p)[4] 16 2 = p.stallAction.code ∧
    bitAt (stagePort p)[4] 20 = (p.behaviour == .fail) := by
  obtain ⟨-, -, -, -, -, -, hstall⟩ := PortPolicy.inRange_iff.1 hp
  have hcode := p.stallAction.code_lt
  have hbit := bit_lt (p.behaviour == .fail)
  refine ⟨?_, ?_, bitAt_of_field ?_⟩ <;> simp only [stagePort_word4, field_ofNat, place] <;> omega

/-- Each field of a staged port record is read back (11.8). -/
theorem stagedPortFields_stagePort : stagedPortFields (stagePort p) p.stallAction p.errorMap = p := by
  obtain ⟨henabled, hfloor, hceiling⟩ := stagePort_fields0 hp
  obtain ⟨hblocks, hweight⟩ := stagePort_fields1 hp
  obtain ⟨hwindow, -, hfail⟩ := stagePort_fields4 hp
  have hbehaviour : (if (p.behaviour == .fail) = true then DownBehaviour.fail else .hold) = p.behaviour := by
    cases p.behaviour <;> rfl
  rw [stagedPortFields, henabled, hfloor, hceiling, hblocks, hweight, stagePort_timeouts hp, hwindow, hfail, hbehaviour]

theorem stagedPort_stagePort (hm : p.errorMap.allowed) : stagedPort (stagePort p) = some p := by
  refine stagedPort_eq_some.2 ⟨?map, ?action, stagedPortFields_stagePort hp, hp⟩
  case map => rw [stagePort_word5, stagedErrorMap_codes hm]
  case action =>
    obtain ⟨-, hcode, -⟩ := stagePort_fields4 hp
    rw [hcode, StallAction.ofCode_code]

end

/-! A window record and the global record -/

/-- A wide field is staged in two words, whose values make it up again. -/
theorem toNat_low_add_high (x n : Nat) (hn : n ≤ 32) (hx : x < 2 ^ (32 + n)) :
    (BitVec.ofNat 32 (x % 2 ^ 32)).toNat + 2 ^ 32 * field (BitVec.ofNat 32 (x / 2 ^ 32)) 0 n = x := by
  have hhigh : x / 2 ^ 32 < 2 ^ n := Nat.div_lt_of_lt_mul (by rwa [← Nat.pow_add])
  have hword : x / 2 ^ 32 < 2 ^ 32 := hhigh.trans_le (Nat.pow_le_pow_right (by decide) hn)
  rw [field_ofNat, Nat.pow_zero, Nat.div_one, Nat.mod_eq_of_lt hword, Nat.mod_eq_of_lt hhigh, BitVec.toNat_ofNat,
    Nat.mod_mod]
  exact Nat.mod_add_div x (2 ^ 32)

theorem stageWindow_word0 (w : Window) : (stageWindow w)[0] =
    BitVec.ofNat 32 (place 0 (bit w.enabled) + place 8 (bit w.canRead) + place 9 (bit w.canWrite)) :=
  getElem_stagingOf (by decide) rfl

/-- The two words of each wide field of a window record (11.8). -/
theorem stageWindow_wide (w : Window) :
    ((stageWindow w)[1] = BitVec.ofNat 32 (w.base.toNat % 2 ^ 32) ∧
      (stageWindow w)[2] = BitVec.ofNat 32 (w.base.toNat / 2 ^ 32)) ∧
    ((stageWindow w)[3] = BitVec.ofNat 32 (w.limit.toNat % 2 ^ 32) ∧
      (stageWindow w)[4] = BitVec.ofNat 32 (w.limit.toNat / 2 ^ 32)) ∧
    ((stageWindow w)[5] = BitVec.ofNat 32 (w.offset.toNat % 2 ^ 32) ∧
      (stageWindow w)[6] = BitVec.ofNat 32 (w.offset.toNat / 2 ^ 32)) :=
  ⟨⟨getElem_stagingOf (by decide) rfl, getElem_stagingOf (by decide) rfl⟩,
    ⟨getElem_stagingOf (by decide) rfl, getElem_stagingOf (by decide) rfl⟩,
    ⟨getElem_stagingOf (by decide) rfl, getElem_stagingOf (by decide) rfl⟩⟩

theorem stagedWindow_stageWindow (w : Window) : stagedWindow (stageWindow w) = w := by
  have h0 := bit_lt w.enabled
  have h1 := bit_lt w.canRead
  have h2 := bit_lt w.canWrite
  have henabled : bitAt (stageWindow w)[0] 0 = w.enabled :=
    bitAt_of_field (by simp only [stageWindow_word0, field_ofNat, place]; omega)
  have hread : bitAt (stageWindow w)[0] 8 = w.canRead :=
    bitAt_of_field (by simp only [stageWindow_word0, field_ofNat, place]; omega)
  have hwrite : bitAt (stageWindow w)[0] 9 = w.canWrite :=
    bitAt_of_field (by simp only [stageWindow_word0, field_ofNat, place]; omega)
  obtain ⟨⟨hbase, hbaseHigh⟩, ⟨hlimit, hlimitHigh⟩, hoffset, hoffsetHigh⟩ := stageWindow_wide w
  rw [stagedWindow, henabled, hread, hwrite, hbase, hbaseHigh, hlimit, hlimitHigh, hoffset, hoffsetHigh,
    toNat_low_add_high w.base.toNat 16 (by decide) w.base.isLt,
    toNat_low_add_high w.limit.toNat 17 (by decide) w.limit.isLt,
    toNat_low_add_high w.offset.toNat 8 (by decide) w.offset.isLt]
  simp only [BitVec.ofNat_toNat, BitVec.setWidth_eq]

theorem stageGlobal_words (g : GlobalPolicy) :
    (stageGlobal g)[0] = BitVec.ofNat 32 (place 0 g.quarantine + place 16 g.backoff + place 24 g.retryLimit) ∧
      (stageGlobal g)[1] = BitVec.ofNat 32 (place 0 g.reshapeLimit) :=
  ⟨getElem_stagingOf (by decide) rfl, getElem_stagingOf (by decide) rfl⟩

theorem stageGlobal_fields {g : GlobalPolicy} (hg : g.inRange) :
    field (stageGlobal g)[0] 0 16 = g.quarantine ∧ field (stageGlobal g)[0] 16 8 = g.backoff ∧
      field (stageGlobal g)[0] 24 4 = g.retryLimit ∧ field (stageGlobal g)[1] 0 16 = g.reshapeLimit := by
  obtain ⟨hword0, hword1⟩ := stageGlobal_words g
  obtain ⟨hquarantine, -, hbackoff, hretries, -, hlimit⟩ := hg
  refine ⟨?_, ?_, ?_, ?_⟩ <;> simp only [hword0, hword1, field_ofNat, place] <;> omega

theorem stagedGlobal_stageGlobal {g : GlobalPolicy} (hg : g.inRange) : stagedGlobal (stageGlobal g) = some g := by
  obtain ⟨hquarantine, hbackoff, hretries, hlimit⟩ := stageGlobal_fields hg
  obtain ⟨-, hbackoffMin, -, -, hlimitMin, -⟩ := hg
  simp only [stagedGlobal, hquarantine, hbackoff, hretries, hlimit]
  exact if_pos ⟨hbackoffMin, hlimitMin⟩

end Sys2Proof.Machine

namespace Sys2Proof.Proofs

open Sys2Proof.Machine

/-- Settles O22: table by table, each field is read back from the place it was staged in. -/
theorem fetchedRecordReadsBack : Obligations.FetchedRecordReadsBack :=
  ⟨fun _ hp hm => stagedPort_stagePort hp hm, stagedWindow_stageWindow, fun _ hg => stagedGlobal_stageGlobal hg⟩

end Sys2Proof.Proofs
end

section
/-! SUPPORT. The commands TABLE_FETCH and TABLE_COMMIT: the record that the arguments name (R182), and what an accepted and a
refused commit leave (R183, R188). -/

namespace Sys2Proof.Machine

/-! The record that the arguments name (R182) -/

theorem TableIndex.ofArgs_port {b : BitVec 16} {h : Port} (hb : b.toNat = h.val) :
    TableIndex.ofArgs 1 b = some (.port h) := by
  obtain ⟨h, hlt⟩ := h
  obtain rfl : b.toNat = h := hb
  simp [TableIndex.ofArgs, hlt]

theorem TableIndex.ofArgs_window {b : BitVec 16} {i : Fin 16} (hb : b.toNat = i.val) :
    TableIndex.ofArgs 2 b = some (.window i) := by
  obtain ⟨i, hlt⟩ := i
  obtain rfl : b.toNat = i := hb
  simp [TableIndex.ofArgs, hlt]

theorem TableIndex.ofArgs_global : TableIndex.ofArgs 3 0 = some .global := rfl

theorem TableIndex.ofArgs_eq_none {a : BitVec 8} {b : BitVec 16} (hport : a ≠ 1 ∨ 4 ≤ b.toNat)
    (hwindow : a ≠ 2 ∨ 16 ≤ b.toNat) (hglobal : a ≠ 3 ∨ b ≠ 0) : TableIndex.ofArgs a b = none := by
  unfold TableIndex.ofArgs
  split
  · rename_i ha
    exact dif_neg (Nat.not_lt.2 (hport.resolve_left (not_not_intro ha)))
  · split
    · rename_i ha
      exact dif_neg (Nat.not_lt.2 (hwindow.resolve_left (not_not_intro ha)))
    · split
      · rename_i ha
        exact if_neg (hglobal.resolve_left (not_not_intro ha))
      · rfl

theorem toNat_ofNat_fin {n : Nat} (hn : n ≤ 2 ^ 16) (i : Fin n) : (BitVec.ofNat 16 i.val).toNat = i.val :=
  (BitVec.toNat_ofNat ..).trans (Nat.mod_eq_of_lt (i.isLt.trans_le hn))

/-! TABLE_FETCH (R182) -/

theorem exec_tableFetch_of_some {s : State} (hs : s.hold = none) {a : BitVec 8} {b : BitVec 16} {x : TableIndex}
    (hx : TableIndex.ofArgs a b = some x) :
    exec (.tableFetch a b) s = .next
      (setResult Command.tableFetch.code .done { s with mgmt := { s.mgmt with staging := fetched x s } }) :=
  (takes_next hs (commandTableFetch a b)).trans (by rw [commandTableFetch, hx])

theorem exec_tableFetch_of_none {s : State} (hs : s.hold = none) {a : BitVec 8} {b : BitVec 16}
    (hx : TableIndex.ofArgs a b = none) :
    exec (.tableFetch a b) s = .next (setResult Command.tableFetch.code .invalid s) :=
  (takes_next hs (commandTableFetch a b)).trans (by rw [commandTableFetch, hx, answerInvalid])

/-! TABLE_COMMIT (R183, R188) -/

/-- The state that an accepted commit leaves in the end: the result is written and the reports are made. -/
def afterCommit (t : State) : State := reportAll (setResult Command.tableCommit.code .done t)

/-- The state that a refused commit leaves in the end. -/
def afterRefusal (s : State) : State := reportAll (setResult Command.tableCommit.code .invalid s)

theorem exec_tableCommit_of_some {s t : State} (hs : s.hold = none) {a : BitVec 8} {b : BitVec 16} {x : TableIndex}
    (hx : TableIndex.ofArgs a b = some x) (ht : commitTable x s = some t) :
    exec (.tableCommit a b) s = .next (afterCommit t) :=
  (takes_next hs fun s => reportAll (commandTableCommit a b s)).trans
    (by simp only [commandTableCommit, hx, ht, afterCommit])

theorem exec_tableCommit_of_none {s : State} (hs : s.hold = none) {a : BitVec 8} {b : BitVec 16}
    (hx : TableIndex.ofArgs a b = none) : exec (.tableCommit a b) s = .next (afterRefusal s) :=
  (takes_next hs fun s => reportAll (commandTableCommit a b s)).trans
    (by simp only [commandTableCommit, hx, answerInvalid, afterRefusal])

theorem exec_tableCommit_of_refused {s : State} (hs : s.hold = none) {a : BitVec 8} {b : BitVec 16} {x : TableIndex}
    (hx : TableIndex.ofArgs a b = some x) (ht : commitTable x s = none) :
    exec (.tableCommit a b) s = .next (afterRefusal s) :=
  (takes_next hs fun s => reportAll (commandTableCommit a b s)).trans
    (by simp only [commandTableCommit, hx, ht, answerInvalid, afterRefusal])

theorem afterCommit_port (t : State) (g : Port) : (afterCommit t).port g = report (t.port g) := port_reportAll ..

theorem afterCommit_log (t : State) : (afterCommit t).log = t.log := rfl

theorem afterCommit_mgmt (t : State) :
    (afterCommit t).mgmt = { t.mgmt with lastCommand := 8, result := .done, frame := .idle } := rfl

/-- An accepted commit changes, beyond its policy, what it changes at the ports alone. -/
theorem afterCommit_frame {s t : State} (ht : { t with policy := s.policy, mgmt := s.mgmt, ports := s.ports } = s) :
    { afterCommit t with policy := s.policy, mgmt := s.mgmt, ports := s.ports } = s := ht

/-- What the end of a commit does is no part of what a port reset leaves. -/
theorem PortLeft.afterCommit {h : Port} {s t : State} (hl : PortLeft h s t) : PortLeft h s (afterCommit t) := hl

/-- A refusal writes its result and makes the reports; nothing else changes (R183). -/
theorem afterRefusal_leaves (s : State) :
    (afterRefusal s).mgmt = { s.mgmt with lastCommand := 8, result := .invalid, frame := .idle } ∧
      (∀ g : Port, (afterRefusal s).port g = report (s.port g)) ∧
      { afterRefusal s with mgmt := s.mgmt, ports := s.ports } = s :=
  ⟨rfl, fun _ => port_reportAll .., rfl⟩

/-! The notice of a commit (R188) -/

theorem noticeChange_eq (h : Port) (changed : Bool) (s : State) :
    noticeChange h changed s = s.modPort h fun p => if changed then raiseNotice noticePolicyChanged p else p := by
  cases changed with
  | true => rfl
  | false => exact (modPort_eq_self s h _ rfl).symm

/-- A port without a session has no notices raised (R128). -/
theorem noticeChange_of_not_active {s : State} {h : Port} (hp : (s.port h).isActive = false) (changed : Bool) :
    noticeChange h changed s = s := by
  rw [noticeChange_eq]
  refine modPort_eq_self s h _ ?_
  simp [raiseNotice, hp]

/-! The lane of a port that a commit disables (R120, R188) -/

section

variable {s : State} {h : Port}

theorem disableLane_of_active (hl : (s.port h).link = .active) : disableLane h s = portResetTaken h .portDisabled s := by
  simp [disableLane, hl]

theorem disableLane_of_fenced (hl : (s.port h).link = .fenced) :
    disableLane h s = s.modPort h (enterHoldoff s.timebase) := by
  simp [disableLane, hl]

theorem disableLane_of_standing (ha : (s.port h).link ≠ .active) (hf : (s.port h).link ≠ .fenced) :
    disableLane h s = s := by
  unfold disableLane
  split <;> simp_all

variable (s h)

/-- The lane is not ACTIVE once its port is disabled. -/
theorem disableLane_not_active : ((disableLane h s).port h).isActive = false := by
  by_cases ha : (s.port h).link = .active
  · rw [disableLane_of_active ha, portResetTaken_port_same]
    rfl
  by_cases hf : (s.port h).link = .fenced
  · rw [disableLane_of_fenced hf, port_modPort_same]
    rfl
  · rw [disableLane_of_standing ha hf]
    simpa [PortState.isActive] using ha

theorem disableLane_port_ne {g : Port} (hg : g ≠ h) : (disableLane h s).port g = s.port g := by
  unfold disableLane
  split
  · exact portResetTaken_port_ne _ _ hg
  · exact port_modPort_ne _ _ hg
  · rfl
  · rfl
  · rfl

theorem disableLane_mgmt : (disableLane h s).mgmt = s.mgmt := by
  unfold disableLane
  split
  · exact portResetTaken_mgmt ..
  · rfl
  · rfl
  · rfl
  · rfl

end

/-! Accepted commits -/

theorem commitPort_of_enabled {s : State} {h : Port} {p : PortPolicy} (hp : stagedPort s.mgmt.staging = some p)
    (hfit : floorsFit s h p.floor = true) (he : p.enabled = true) :
    commitPort h s = some (noticeChange h (p != s.portPolicy h) (setPortPolicy h p s)) :=
  commitPort_eq_some.2 ⟨p, hp, hfit, by rw [if_pos he]⟩

theorem commitPort_of_disabled {s : State} {h : Port} {p : PortPolicy} (hp : stagedPort s.mgmt.staging = some p)
    (hfit : floorsFit s h p.floor = true) (he : p.enabled = false) :
    commitPort h s = some (disableLane h (setPortPolicy h p s)) := by
  refine commitPort_eq_some.2 ⟨p, hp, hfit, ?_⟩
  rw [if_neg (Bool.eq_false_iff.1 he), noticeChange_of_not_active (disableLane_not_active ..)]

/-- The port after a commit that disables it: it reports nothing, for it has no session. -/
theorem afterCommit_disableLane_port (h : Port) (u : State) :
    (afterCommit (disableLane h u)).port h = (disableLane h u).port h :=
  (afterCommit_port ..).trans (report_of_not_active (disableLane_not_active u h))

/-! Refused commits -/

theorem commitPort_eq_none {s : State} {h : Port}
    (hp : ∀ p, stagedPort s.mgmt.staging = some p → floorsFit s h p.floor = false) : commitPort h s = none := by
  refine Option.eq_none_iff_forall_ne_some.2 fun t ht => ?_
  obtain ⟨p, hsome, hfit, -⟩ := commitPort_eq_some.1 ht
  exact Bool.false_ne_true ((hp p hsome).symm.trans hfit)

theorem commitWindow_eq_none {s : State} {i : Fin 16} (hw : (stagedWindow s.mgmt.staging).valid = false) :
    commitWindow i s = none := by
  refine Option.eq_none_iff_forall_ne_some.2 fun t ht => ?_
  obtain ⟨hvalid, -⟩ := commitWindow_eq_some.1 ht
  exact Bool.false_ne_true (hw.symm.trans hvalid)

/-- A backoff or a reshape limit of 0 is refused (R187). -/
theorem commitGlobal_eq_none {s : State}
    (hz : field s.mgmt.staging[0] 16 8 = 0 ∨ field s.mgmt.staging[1] 0 16 = 0) : commitGlobal s = none := by
  have hg : stagedGlobal s.mgmt.staging = none := if_neg (by
    rintro ⟨hbackoff, hlimit⟩
    simp only at hbackoff hlimit
    omega)
  rw [commitGlobal, hg, Option.map_none]

end Sys2Proof.Machine

namespace Sys2Proof.Proofs

open Sys2Proof.Machine

/-- Settles O21: the command stages what the arguments name, and the clauses on the arguments exclude each other. -/
theorem fetchFillsStaging : Obligations.FetchFillsStaging := by
  intro a b s hs
  refine ⟨fun x hx => exec_tableFetch_of_some hs hx, fun h ha hb => ?port, fun i ha hb => ?window, fun ha hb => ?global,
    fun hport hwindow hglobal => ?none⟩
  case port => rw [ha, TableIndex.ofArgs_port hb]
  case window => rw [ha, TableIndex.ofArgs_window hb]
  case global => rw [ha, hb, TableIndex.ofArgs_global]
  case none =>
    have hnone := TableIndex.ofArgs_eq_none hport hwindow hglobal
    exact ⟨hnone, exec_tableFetch_of_none hs hnone⟩

/-- Settles O23: table by table, by what an accepted commit writes; a port that is disabled is left by the state of its
lane, as `portResetTaken_cleared` and `portResetTaken_left` say where it is ACTIVE. -/
theorem commitReplacesTheRecord : Obligations.CommitReplacesTheRecord := by
  intro s hs
  refine ⟨fun h p hp hfit he => ?enabled, fun h p u hp hfit he hu => ?disabled, fun i hw => ?window, fun g hg => ?global⟩
  case enabled =>
    refine ⟨_, exec_tableCommit_of_some hs (TableIndex.ofArgs_port (toNat_ofNat_fin (by decide) h))
      (commitPort_of_enabled hp hfit he), ?_⟩
    rw [noticeChange_eq]
    refine ⟨rfl, rfl, ?_, fun g hg => ?_, afterCommit_frame rfl⟩
    · rw [afterCommit_port, port_modPort_same]
      simp only [bne_iff_ne, ne_eq, ite_not]
      rfl
    · rw [afterCommit_port, port_modPort_ne _ _ hg]
      rfl
  case disabled =>
    obtain rfl : u = setPortPolicy h p s := hu
    refine ⟨_, exec_tableCommit_of_some hs (TableIndex.ofArgs_port (toNat_ofNat_fin (by decide) h))
      (commitPort_of_disabled hp hfit he), (globalsKept_disableLane h _).policy, ?_, fun g hg => ?_, fun hl => ?_,
      fun hl => ?_, fun ha hf => ?_⟩
    · rw [afterCommit_mgmt, disableLane_mgmt]
      rfl
    · rw [afterCommit_port, disableLane_port_ne _ _ hg]
      rfl
    · rw [afterCommit_disableLane_port, disableLane_of_active (s := setPortPolicy h p s) hl]
      exact ⟨portResetTaken_cleared .., (portResetTaken_left ..).afterCommit,
        lastLogged_of_log (a := setPortPolicy h p s) _ rfl ((afterCommit_log _).trans (portResetTaken_log ..))⟩
    · rw [afterCommit_disableLane_port, disableLane_of_fenced (s := setPortPolicy h p s) hl, port_modPort_same,
        enterHoldoff, cutOff_eq]
      exact ⟨rfl, rfl, rfl, rfl, afterCommit_frame rfl⟩
    · rw [afterCommit_disableLane_port, disableLane_of_standing (s := setPortPolicy h p s) ha hf]
      exact ⟨rfl, afterCommit_frame rfl⟩
  case window =>
    refine ⟨_, exec_tableCommit_of_some hs (TableIndex.ofArgs_window (toNat_ofNat_fin (by decide) i))
      (commitWindow_eq_some.2 ⟨hw, rfl⟩), ?_⟩
    rw [noticeChange_eq]
    refine ⟨rfl, rfl, fun g => ?_, afterCommit_frame rfl⟩
    have hown : g = windowPort i ↔ g.val = i.val / 4 := Fin.ext_iff
    rw [afterCommit_port, port_modPort]
    simp only [hown, bne_iff_ne, ite_and]
    rfl
  case global =>
    exact ⟨_, exec_tableCommit_of_some hs TableIndex.ofArgs_global (commitGlobal_eq_some.2 ⟨g, hg, rfl⟩), rfl, rfl,
      afterCommit_port _, afterCommit_frame rfl⟩

/-- Settles O24: each refusal answers INVALID and leaves the state as `afterRefusal_leaves` says. -/
theorem refusedCommitChangesNothing : Obligations.RefusedCommitChangesNothing := by
  intro s hs
  refine ⟨fun h hp => ⟨_, ?port, afterRefusal_leaves s⟩, fun i hw => ⟨_, ?window, afterRefusal_leaves s⟩,
    fun a b hab => ⟨_, ?other, afterRefusal_leaves s⟩⟩
  case port =>
    exact exec_tableCommit_of_refused hs (TableIndex.ofArgs_port (toNat_ofNat_fin (by decide) h)) (commitPort_eq_none hp)
  case window =>
    exact exec_tableCommit_of_refused hs (TableIndex.ofArgs_window (toNat_ofNat_fin (by decide) i))
      (commitWindow_eq_none hw)
  case other =>
    rcases hab with hnone | ⟨rfl, rfl, hz⟩
    · exact exec_tableCommit_of_none hs hnone
    · exact exec_tableCommit_of_refused hs TableIndex.ofArgs_global (commitGlobal_eq_none hz)

end Sys2Proof.Proofs
end

section
/-! SUPPORT. The register window (11.6): writes by the access kind of their address (R179), what a staging word reads as after
a write, and what every word reads as after reset. -/

namespace Sys2Proof.Machine

/-! The addresses of the staging words -/

theorem stagingIndex_eq_some {a : BitVec 16} {i : Fin 16} : stagingIndex a = some i ↔ a.toNat = 0x40 + i.val := by
  obtain ⟨i, hi⟩ := i
  simp only [stagingIndex, Option.dite_none_right_eq_some, Option.some.injEq, Fin.mk.injEq]
  constructor
  · rintro ⟨ha, rfl⟩
    omega
  · intro ha
    exact ⟨by omega, by omega⟩

theorem stagingIndex_eq_none {a : BitVec 16} (ha : a.toNat < 0x40 ∨ 0x50 ≤ a.toNat) : stagingIndex a = none :=
  dif_neg (by omega)

/-- Two addresses of one staging word are the same. -/
theorem eq_of_stagingIndex_eq {a b : BitVec 16} {i : Fin 16} (ha : stagingIndex a = some i)
    (hb : stagingIndex b = some i) : a = b :=
  BitVec.eq_of_toNat_eq ((stagingIndex_eq_some.1 ha).trans (stagingIndex_eq_some.1 hb).symm)

/-! Reads of the window -/

theorem readWord_of_staging {a : BitVec 16} {i : Fin 16} (ha : stagingIndex a = some i) (s : State) :
    readWord s a = s.mgmt.staging[i.val] := by
  rw [readWord, ha]

/-- A word outside the staging area rests on nothing of the staging words and of the SPI frame. -/
theorem readWord_congr_mgmt {a : BitVec 16} (ha : stagingIndex a = none) (s : State) (v : Vector Word 16)
    (f : FrameState) : readWord { s with mgmt := { s.mgmt with staging := v, frame := f } } a = readWord s a := by
  unfold readWord
  rw [ha]
  rfl

/-- An address above the staging words is unassigned and reads 0 (R179). -/
theorem readWord_of_high {a : BitVec 16} (ha : 0x50 ≤ a.toNat) (s : State) : readWord s a = 0 := by
  have hgroup : portGroup a.toNat = none := dif_neg (by omega)
  rw [readWord, stagingIndex_eq_none (.inr ha), hgroup]
  unfold partWord
  repeat rw [if_neg (by omega)]

/-! Writes of the window (R179) -/

theorem writeStaging_of_some {a : BitVec 16} {i : Fin 16} (ha : stagingIndex a = some i) (w : Word) (s : State) :
    writeStaging a w s = { s with mgmt := { s.mgmt with staging := s.mgmt.staging.set i.val w, frame := .idle } } := by
  rw [writeStaging, ha]
  rfl

theorem writeStaging_of_none {a : BitVec 16} (ha : stagingIndex a = none) (w : Word) (s : State) :
    writeStaging a w s = { s with mgmt := { s.mgmt with frame := .idle } } := by
  rw [writeStaging, ha]
  rfl

/-- A staging word reads back what was written to it, and every other word reads as before (R179, R197). -/
theorem readWord_writeStaging {a b : BitVec 16} {i : Fin 16} (ha : stagingIndex a = some i) (w : Word) (s : State) :
    readWord (writeStaging a w s) b = if b = a then w else readWord s b := by
  rw [writeStaging_of_some ha]
  cases hb : stagingIndex b with
  | none =>
    have hne : b ≠ a := by
      rintro rfl
      rw [ha] at hb
      cases hb
    rw [readWord_congr_mgmt hb, if_neg hne]
  | some j =>
    rw [readWord_of_staging hb, readWord_of_staging hb]
    have hsame : i.val = j.val ↔ b = a :=
      ⟨fun h => eq_of_stagingIndex_eq hb (by rwa [← Fin.ext h]), fun h => by
        subst h
        rw [ha] at hb
        cases hb
        rfl⟩
    simp only [Vector.getElem_set, hsame]

theorem exec_registerWrite_of_plain {s : State} (hs : s.hold = none) {a : BitVec 16} (ha : plainAddress a = true)
    (w : Word) : exec (.registerWrite a w) s = .next (writeStaging a w s) :=
  (takes_next hs (writeRegister a w)).trans (congrArg _ (writeRegister_of_plain ha w s))

/-! Command words that are answered INVALID (R180, R195) -/

theorem exec_invalidCommand {s : State} (hs : s.hold = none) {w : Word} (hw : commandInRange w = false) :
    exec (.invalidCommand w) s = .next (answerInvalid (commandCode w) s) :=
  (takes_next hs fun s => if commandInRange w then s else answerInvalid (commandCode w) s).trans
    (congrArg _ (if_neg (Bool.eq_false_iff.1 hw)))

theorem exec_portReset_of_range {s : State} (hs : s.hold = none) {a : BitVec 8} (ha : 4 ≤ a.toNat) :
    exec (.portReset a) s = .next (answerInvalid Command.portReset.code s) := by
  have hnone : portOfArg a = none := dif_neg (Nat.not_lt.2 ha)
  exact (takes_next hs (commandPortReset a)).trans (by rw [commandPortReset, hnone])

theorem exec_reshape_of_range {s : State} (hs : s.hold = none) {b : BitVec 16} (hb : Mrs.ofBytes b.toNat = none) :
    exec (.reshape b) s = .next (answerInvalid Command.reshape.code s) :=
  (takes_next hs (commandReshape b)).trans (by rw [commandReshape, hb])

theorem Mrs.ofBytes_eq_none {n : Nat} (h64 : n ≠ 64) (h128 : n ≠ 128) (h256 : n ≠ 256) (h512 : n ≠ 512) :
    Mrs.ofBytes n = none := by
  rw [Mrs.ofBytes, if_neg h64, if_neg h128, if_neg h256, if_neg h512]

/-! The window after reset -/

/-- What 11.6 gives for a word after a power-on reset with no carrier on any lane. -/
def resetWord (a : BitVec 16) : Word :=
  if a = 0x003 then 0x1000 else if a = 0x011 then 0x80 else if a = 0x012 then 0x100 else if a = 0x017 then 0x80
  else if a = 0x020 ∨ a = 0x028 ∨ a = 0x030 ∨ a = 0x038 then 0x10000 else 0

/-- The words with a value of their own lie below the staging words. -/
theorem resetWord_of_high {a : BitVec 16} (ha : 0x40 ≤ a.toNat) : resetWord a = 0 := by
  have hne {k : BitVec 16} (hk : k.toNat < 0x40) : a ≠ k := fun h => absurd (h ▸ ha) (Nat.not_le.2 hk)
  simp only [resetWord, hne (k := 0x003) (by decide), hne (k := 0x011) (by decide), hne (k := 0x012) (by decide),
    hne (k := 0x017) (by decide), hne (k := 0x020) (by decide), hne (k := 0x028) (by decide),
    hne (k := 0x030) (by decide), hne (k := 0x038) (by decide), or_self, if_false]

/-- The registers of the part and of the ports, address by address. -/
theorem readWord_reset_registers :
    ∀ k : Fin 0x40, readWord State.reset (BitVec.ofNat 16 k.val) = resetWord (BitVec.ofNat 16 k.val) := by
  decide +kernel

theorem readWord_reset (a : BitVec 16) : readWord State.reset a = resetWord a := by
  by_cases hlow : a.toNat < 0x40
  · have hregister := readWord_reset_registers ⟨a.toNat, hlow⟩
    rwa [BitVec.ofNat_toNat, BitVec.setWidth_eq] at hregister
  rw [resetWord_of_high (Nat.not_lt.1 hlow)]
  by_cases hhigh : 0x50 ≤ a.toNat
  · exact readWord_of_high hhigh _
  · have hstaging : stagingIndex a = some ⟨a.toNat - 0x40, by omega⟩ := stagingIndex_eq_some.2 (by simp only; omega)
    rw [readWord_of_staging hstaging]
    exact Vector.getElem_replicate ..

/-! The invariants at reset -/

theorem port_reset (h : Port) : State.reset.port h = PortState.reset := Vector.getElem_replicate ..

/-- A port right after a part reset meets what is asked of each port. -/
theorem portReset_sound :
    PortState.reset.creditsBalance ∧ PortState.reset.responsesQueued ∧ PortState.reset.sessionSound ∧
      PortState.reset.idsOnce ∧ PortState.reset.staging.wf ∧
      (PortState.reset.respHdr ≤ PortState.reset.capHdr ∧ PortState.reset.respData ≤ PortState.reset.capData) := by
  decide +kernel

/-- No tag waits for its retry while every tag is FREE. -/
theorem waitsForRetry_reset (t : Tag) : State.reset.waitsForRetry t = false := by
  have hfree : State.reset.tagRec t = none := Vector.getElem_replicate ..
  rw [State.waitsForRetry, hfree]

theorem retriesQueued_reset : RetriesQueued State.reset :=
  ⟨List.nodup_nil, fun t => by rw [waitsForRetry_reset]; exact ⟨nofun, nofun⟩, nofun⟩

theorem blocksReservedOnce_reset : BlocksReservedOnce State.reset := by
  have hnone : reservedBlocks State.reset = [] := by decide +kernel
  rw [BlocksReservedOnce, hnone]
  exact List.nodup_nil

end Sys2Proof.Machine

namespace Sys2Proof.Proofs

open Sys2Proof.Machine

/-- Settles O17: a plain write is `writeStaging`, whose reads `readWord_writeStaging` gives; the others end the frame or
answer INVALID. -/
theorem registerWritesAndDiscards : Obligations.RegisterWritesAndDiscards := by
  intro s hs
  refine ⟨fun a w ha => ⟨fun i hi => ?stored, fun hout => ?discarded⟩, takes_next hs endFrame,
    fun w hw => exec_invalidCommand hs hw, fun a ha => exec_portReset_of_range hs ha,
    fun b h64 h128 h256 h512 => exec_reshape_of_range hs (Mrs.ofBytes_eq_none h64 h128 h256 h512)⟩
  case stored =>
    have hindex := stagingIndex_eq_some.2 hi
    refine ⟨_, exec_registerWrite_of_plain hs ha w, ?_, fun b hb => ?_, ?_⟩
    · rw [readWord_writeStaging hindex, if_pos rfl]
    · rw [readWord_writeStaging hindex, if_neg hb]
    · rw [writeStaging_of_some hindex]
  case discarded =>
    rw [exec_registerWrite_of_plain hs ha, writeStaging_of_none (stagingIndex_eq_none hout)]

/-- Settles O14: each port is the reset port, no tag and no block is held, and the window reads `resetWord`. -/
theorem resetIsSound : Obligations.ResetIsSound := by
  obtain ⟨hbalance, hqueued, hsession, hids, hstaging, hcredits⟩ := portReset_sound
  refine ⟨⟨fun _ h => ?_, fun h => ?_, fun h => ?_, retriesQueued_reset, blocksReservedOnce_reset, List.nodup_nil, ?target,
    ⟨by decide, rfl⟩, policyInRange_reset, ⟨⟨List.Pairwise.nil, nofun⟩, fun h => ?_⟩, fun h => ?_, fun h => ?_, rfl⟩,
    readWord_reset⟩
  case target => exact ⟨⟨le_rfl, le_rfl, by decide, by decide, fun _ => ⟨rfl, rfl⟩, rfl⟩, rfl, nofun⟩
  all_goals rw [port_reset]; assumption

end Sys2Proof.Proofs
end

section
/-! SUPPORT. The reset hold and the part resets (10.5): what the beginning of a hold cuts off, that a hold takes no event, and
what a part reset leaves of the ports and of the target lane (R132, R157, R189, R190). -/

namespace Sys2Proof.Machine

/-! The reset hold (R189) -/

theorem inHold_of_ne_none {s : State} (hs : s.hold ≠ none) : s.inHold = true := Option.isSome_iff_ne_none.2 hs

theorem beginHold_port (c : HoldCause) (s : State) (h : Port) :
    (beginHold c s).port h = cutOff .stopped (s.port h) := port_modPorts s (cutOff .stopped) h

/-- An event that the hold masks (R189). -/
theorem next_of_inHold {s t : State} (hin : s.inHold = true) :
    (.next (if s.inHold then s else t) : Host.Outcome State Fault Refusal) = .next s :=
  congrArg _ (if_pos hin)

/-- In the hold only the part resets and the carrier levels are taken (R189; log 16). -/
theorem exec_of_hold {s : State} (hs : s.hold ≠ none) {c : Instr} (hpower : c ≠ .powerOnReset) (hpin : c ≠ .pinReset)
    (hdetect : c ≠ .targetCarrierDetect) (hloss : c ≠ .targetCarrierLoss)
    (hhost : ∀ h : Port, c ≠ .hostCarrierDetect h ∧ c ≠ .hostCarrierLoss h) : exec c s = .next s := by
  have hin := inHold_of_ne_none hs
  cases c with
  | powerOnReset => exact absurd rfl hpower
  | pinReset => exact absurd rfl hpin
  | targetCarrierDetect => exact absurd rfl hdetect
  | targetCarrierLoss => exact absurd rfl hloss
  | hostCarrierDetect h => exact absurd rfl (hhost h).1
  | hostCarrierLoss h => exact absurd rfl (hhost h).2
  | request h kind id cls addr len data => simp [exec, execRequest, hin]
  | _ => exact next_of_inHold hin

/-- In the hold ALERT_N is released, the transmitters are off and no frame is answered (R189). -/
theorem outputs_of_hold {s : State} (hs : s.hold ≠ none) :
    alertLow s = false ∧ targetTransmitterOn s = false ∧ (∀ h : Port, hostTransmitterOn s h = false) ∧
      ∀ (bytes : List Byte) (n : Nat), readFrame s bytes n = none := by
  have hin := inHold_of_ne_none hs
  refine ⟨?_, ?_, fun h => ?_, fun bytes n => if_pos hin⟩
  · rw [alertLow, hin]
    rfl
  · rw [targetTransmitterOn, hin]
    rfl
  · rw [hostTransmitterOn, hin]
    rfl

/-! Part resets -/

theorem targetFresh_freshTarget (cut : Option TargetTx) (l : TargetLane) : TargetFresh cut l (freshTarget cut l) := by
  unfold TargetFresh freshTarget
  cases l.carrier <;> rfl

/-- The last packet cut off at a SOFT_RESET: the one being sent, closed, or else the one before it (R132). -/
theorem softPort_of_sending {p : PortState} {k : HostPacket} (hk : p.tx = some k) :
    PortFresh (some (.closed, k)) p (softPort p) := by
  rw [softPort, cutOff_eq, hk]
  rfl

theorem softPort_of_free {p : PortState} (hk : p.tx = none) : PortFresh p.lastCut p (softPort p) := by
  rw [softPort, cutOff_eq, hk]
  rfl

theorem softTarget_of_idle {l : TargetLane} (hk : l.tx = .idle) : TargetFresh l.lastCut l (softTarget l) := by
  have hcut : cutTarget l = l := by rw [cutTarget, hk]
  rw [softTarget, hcut]
  exact targetFresh_freshTarget ..

theorem softTarget_of_sending {l : TargetLane} (hk : l.tx ≠ .idle) : TargetFresh (some l.tx) l (softTarget l) := by
  have hcut : (cutTarget l).lastCut = some l.tx := by
    unfold cutTarget
    split
    · exact absurd ‹_› hk
    · rfl
  rw [softTarget, hcut]
  exact targetFresh_freshTarget ..

section

variable (c : ResetCause) (l : FaultLog) (f : PortState → PortState) (g : TargetLane → TargetLane) (s : State)

theorem resetBlocks_port (h : Port) : (resetBlocks c l f g s).port h = f (s.port h) :=
  getElem_mapTable (fun _ => f) s.ports h.val h.isLt

/-- Every block but the lanes, the log and the management port is at its reset values (R189). -/
theorem resetBlocks_cleared : PartCleared s (resetBlocks c l f g s) := ⟨rfl, rfl, rfl, rfl, rfl, rfl, rfl, rfl⟩

end

/-- A power-on or pin reset records its cause, empties the log and leaves every lane fresh (R176, R189). -/
theorem hardReset_leaves (c : ResetCause) (s : State) :
    PartCleared s (hardReset c s) ∧ (hardReset c s).log = State.reset.log ∧
      (hardReset c s).mgmt = { State.reset.mgmt with resetCause := c } ∧
      TargetFresh none s.target (hardReset c s).target ∧
      ∀ h : Port, PortFresh none (s.port h) ((hardReset c s).port h) :=
  ⟨resetBlocks_cleared .., rfl, rfl, targetFresh_freshTarget .., fun h => resetBlocks_port _ _ _ _ s h⟩

theorem commandSoftReset_cleared (s : State) : PartCleared s (commandSoftReset s) :=
  resetBlocks_cleared .soft { s.log with view := none } softPort softTarget s

theorem commandSoftReset_port (s : State) (h : Port) : (commandSoftReset s).port h = softPort (s.port h) :=
  resetBlocks_port .soft { s.log with view := none } softPort softTarget s h

end Sys2Proof.Machine

namespace Sys2Proof.Proofs

open Sys2Proof.Machine

/-- Settles O4: the beginning of a hold is `cutOff` at each port and `cutTarget` at the target lane; in the hold the events
are those of `exec_of_hold`. -/
theorem resetHoldTakesNoEvent : Obligations.ResetHoldTakesNoEvent := by
  refine ⟨fun c s hs => ?begin, fun s hs => ?hold⟩
  case begin =>
    refine ⟨beginHold c s, takes_next hs _, rfl, fun h => ?_, cutTarget_tx _, cutTarget_frame _, rfl, rfl⟩
    rw [beginHold_port, cutOff_eq]
    exact ⟨rfl, rfl⟩
  case hold =>
    have hin := inHold_of_ne_none hs
    exact ⟨fun c => exec_of_hold hs, fun h => ⟨congrArg _ (if_pos hin), congrArg _ (if_pos hin)⟩,
      congrArg _ (if_pos hin), congrArg _ (if_pos hin), outputs_of_hold hs⟩

/-- Settles O15: the two hard resets by `hardReset_leaves`, a hold of the other cause stands, and SOFT_RESET by what each
lane was sending. -/
theorem partResetsClearThePart : Obligations.PartResetsClearThePart := by
  intro s
  refine ⟨fun hpin => ⟨hardReset .powerOn s, congrArg Host.Outcome.next (if_neg hpin), hardReset_leaves .powerOn s⟩,
    fun hpower => ⟨hardReset .pin s, congrArg Host.Outcome.next (if_neg hpower), hardReset_leaves .pin s⟩,
    fun hpin => congrArg Host.Outcome.next (if_pos hpin), fun hpower => congrArg Host.Outcome.next (if_pos hpower),
    fun hs => ?soft⟩
  refine ⟨commandSoftReset s, takes_next hs _, commandSoftReset_cleared s, rfl, rfl, ?target, fun h => ?port⟩
  case target =>
    split
    · exact softTarget_of_idle ‹_›
    · exact softTarget_of_sending ‹_›
  case port =>
    rw [commandSoftReset_port]
    split
    · exact softPort_of_sending ‹_›
    · exact softPort_of_free ‹_›

end Sys2Proof.Proofs
end

/-! Proofs about the byte formats (11): the packets that the part takes, the COMMAND words, and the SPI frames. -/

section
/-! SUPPORT. The packets that the part takes (11.2, 11.3): which are unusable, and where the fields of the others are
read. -/

namespace Sys2Proof.Machine

/-! Unusable packets (R192, R193) -/

/-- Any kind code but REQUEST's names a header of 8 bytes, if it names one (11.2). -/
theorem hostUnusable_iff (bytes : List Byte) :
    hostUnusable bytes = true ↔
      bytes.length < 8 ∨ (bytes.headD 0 = 2 ∧ bytes.length < 16) ∨
        bytes.headD 0 ≠ 1 ∧ bytes.headD 0 ≠ 2 ∧ bytes.headD 0 ≠ 3 ∧ bytes.headD 0 ≠ 4 := by
  unfold hostUnusable unusable hostHeader kindCode
  generalize bytes.headD 0 = c
  by_cases hrequest : c = 2
  · subst hrequest
    simp only [show (2 : Byte) ≠ 1 by decide, if_false, if_true, decide_eq_true_eq, true_and, ne_eq, not_true,
      false_and, and_false, or_false]
    omega
  · by_cases hother : c = 1 ∨ c = 3 ∨ c = 4
    · rcases hother with rfl | rfl | rfl <;> simp
    · obtain ⟨hattach, hcredit, hack⟩ : c ≠ 1 ∧ c ≠ 3 ∧ c ≠ 4 := by simpa using hother
      simp only [hattach, hrequest, hcredit, hack, if_false, false_and, ne_eq, not_false_iff, and_self, or_true]

theorem targetUnusable_iff (bytes : List Byte) :
    targetUnusable bytes = true ↔
      bytes.length < 8 ∨ bytes.headD 0 ≠ 0x31 ∧ bytes.headD 0 ≠ 0x32 ∧ bytes.headD 0 ≠ 0x33 := by
  unfold targetUnusable unusable targetHeader kindCode
  generalize bytes.headD 0 = c
  by_cases hknown : c = 0x31 ∨ c = 0x32 ∨ c = 0x33
  · rcases hknown with rfl | rfl | rfl <;> simp
  · obtain ⟨hack, hcpl, hcredit⟩ : c ≠ 0x31 ∧ c ≠ 0x32 ∧ c ≠ 0x33 := by simpa using hknown
    simp only [hack, hcpl, hcredit, if_false, ne_eq, not_false_iff, and_self, or_true]

theorem hostCommand_eq_unusable_iff (h : Port) (bytes : List Byte) :
    hostCommand h bytes = .hostUnusablePacket h bytes ↔ hostUnusable bytes = true := by
  unfold hostCommand
  split
  · simp [*]
  · split_ifs <;> simp [*]

theorem targetCommand_eq_unusable_iff (bytes : List Byte) :
    targetCommand bytes = .targetUnusablePacket bytes ↔ targetUnusable bytes = true := by
  unfold targetCommand
  split
  · simp [*]
  · split_ifs <;> simp [*]

/-- Only the row of an unusable packet restricts its operand, and a packet becomes that row where it is unusable. -/
theorem hostCommand_wellFormed (h : Port) (bytes : List Byte) : (hostCommand h bytes).wellFormed = true := by
  unfold hostCommand
  split
  · assumption
  · split_ifs <;> rfl

theorem targetCommand_wellFormed (bytes : List Byte) : (targetCommand bytes).wellFormed = true := by
  unfold targetCommand
  split
  · assumption
  · split_ifs <;> rfl

/-! Fields of packets -/

/-- The first byte of a little-endian field is its least significant one (00 section 4). -/
theorem ofNat_leValue_cons (n : Nat) (b : Byte) (bs : List Byte) :
    BitVec.ofNat (n + 8) (leValue (b :: bs)) = BitVec.ofNat n (leValue bs) ++ b := by
  apply BitVec.eq_of_toNat_eq
  have hb : b.toNat < 2 ^ 8 := b.isLt
  have hlow : (b.toNat + 256 * leValue bs) % 2 ^ 8 = b.toNat := by omega
  have hhigh : (b.toNat + 256 * leValue bs) / 2 ^ 8 = leValue bs := by omega
  rw [BitVec.toNat_append, ← Nat.shiftLeft_add_eq_or_of_lt hb, Nat.shiftLeft_eq, BitVec.toNat_ofNat, BitVec.toNat_ofNat,
    leValue, Nat.pow_add, Nat.mul_comm (2 ^ n), Nat.mod_mul, hlow, hhigh]
  omega

@[simp] theorem ofNat8_leValue (b : Byte) : BitVec.ofNat 8 (leValue [b]) = b := by
  simp [leValue]

@[simp] theorem ofNat16_leValue (b0 b1 : Byte) : BitVec.ofNat 16 (leValue [b0, b1]) = b1 ++ b0 :=
  (ofNat_leValue_cons 8 b0 [b1]).trans (congrArg (· ++ b0) (ofNat8_leValue b1))

@[simp] theorem ofNat48_leValue (b0 b1 b2 b3 b4 b5 : Byte) :
    BitVec.ofNat 48 (leValue [b0, b1, b2, b3, b4, b5]) = b5 ++ b4 ++ b3 ++ b2 ++ b1 ++ b0 := by
  have h24 := (ofNat_leValue_cons 16 b3 [b4, b5]).trans (congrArg (· ++ b3) (ofNat16_leValue b4 b5))
  have h32 := (ofNat_leValue_cons 24 b2 _).trans (congrArg (· ++ b2) h24)
  have h40 := (ofNat_leValue_cons 32 b1 _).trans (congrArg (· ++ b1) h32)
  exact (ofNat_leValue_cons 40 b0 _).trans (congrArg (· ++ b0) h40)

@[simp] theorem ofNat6_leValue (b : Byte) : BitVec.ofNat 6 (leValue [b]) = b.extractLsb' 0 6 := by
  simp [leValue, BitVec.extractLsb']

@[simp] theorem ofNat2_leValue (b : Byte) : BitVec.ofNat 2 (leValue [b] / 64) = b.extractLsb' 6 2 := by
  simp [leValue, BitVec.extractLsb', Nat.shiftRight_eq_div_pow]

/-! The packets of a host (11.2) -/

section
variable (h : Port) (b1 b2 b3 b4 b5 b6 b7 : Byte) (rest : List Byte)

theorem hostCommand_attach :
    hostCommand h (1 :: b1 :: b2 :: b3 :: b4 :: b5 :: b6 :: b7 :: rest) =
      .attach h (b1.extractLsb' 0 6) b2 (b5 ++ b4) := by
  simp [hostCommand, hostUnusable_iff, kindCode, fieldAt]

theorem hostCommand_request (b8 b9 b10 b11 b12 b13 b14 b15 : Byte) :
    hostCommand h
        (2 :: b1 :: b2 :: b3 :: b4 :: b5 :: b6 :: b7 :: b8 :: b9 :: b10 :: b11 :: b12 :: b13 :: b14 :: b15 :: rest) =
      .request h b1 (b2.extractLsb' 0 6) (b2.extractLsb' 6 2) (b9 ++ b8 ++ b7 ++ b6 ++ b5 ++ b4) (b11 ++ b10) rest := by
  simp [hostCommand, hostUnusable_iff, kindCode, fieldAt]

theorem hostCommand_credit :
    hostCommand h (3 :: b1 :: b2 :: b3 :: b4 :: b5 :: b6 :: b7 :: rest) = .credit h b1 (b3 ++ b2) := by
  simp [hostCommand, hostUnusable_iff, kindCode, fieldAt]

theorem hostCommand_noticeAck :
    hostCommand h (4 :: b1 :: b2 :: b3 :: b4 :: b5 :: b6 :: b7 :: rest) = .noticeAck h (b1.extractLsb' 0 6) := by
  simp [hostCommand, hostUnusable_iff, kindCode, fieldAt]

/-! The packets of the target (11.3) -/

theorem targetCommand_trainAck :
    targetCommand (0x31 :: b1 :: b2 :: b3 :: b4 :: b5 :: b6 :: b7 :: rest) = .trainAck b1 (b3 ++ b2) (b5 ++ b4) := by
  simp [targetCommand, targetUnusable_iff, kindCode, fieldAt]

theorem targetCommand_tcpl {x : Tag} (hx : x.val = b1.toNat % 128) :
    targetCommand (0x32 :: b1 :: b2 :: b3 :: b4 :: b5 :: b6 :: b7 :: rest) = .tcpl x b2 (b5 ++ b4) rest := by
  obtain rfl : x = ⟨leValue [b1] % 128, Nat.mod_lt _ (by decide)⟩ := Fin.ext (hx.trans (by simp [leValue]))
  simp [targetCommand, targetUnusable_iff, kindCode, fieldAt]

theorem targetCommand_tcredit :
    targetCommand (0x33 :: b1 :: b2 :: b3 :: b4 :: b5 :: b6 :: b7 :: rest) = .tcredit b1 (b3 ++ b2) := by
  simp [targetCommand, targetUnusable_iff, kindCode, fieldAt]

end

end Sys2Proof.Machine
end

section
/-! SUPPORT. The COMMAND words (R180, R181, R195), and what a word written at an address stands for (R179). -/

namespace Sys2Proof.Machine

/-! Codes and ranges of arguments -/

theorem Command.ofCode_eq_some {c : BitVec 8} {k : Command} : Command.ofCode c = some k ↔ c = k.code := by
  constructor
  · unfold Command.ofCode
    intro h
    split_ifs at h <;> cases h <;> assumption
  · rintro rfl
    cases k <;> rfl

theorem isSome_portOfArg (a : BitVec 8) : (portOfArg a).isSome = decide (a.toNat < 4) := by
  unfold portOfArg
  split <;> simp [*]

theorem isSome_mrsOfBytes (b : BitVec 16) :
    (Mrs.ofBytes b.toNat).isSome = decide (b = 64 ∨ b = 128 ∨ b = 256 ∨ b = 512) := by
  simp only [Mrs.ofBytes, ← BitVec.toNat_inj]
  split_ifs <;> simp [*]

theorem TableIndex.isSome_ofArgs (a : BitVec 8) (b : BitVec 16) :
    (TableIndex.ofArgs a b).isSome =
      (decide (a = 1 ∧ b.toNat < 4) || decide (a = 2 ∧ b.toNat < 16) || decide (a = 3 ∧ b = 0)) := by
  unfold TableIndex.ofArgs
  split_ifs <;>
    simp only [*, Option.isSome_some, Option.isSome_none, BitVec.reduceEq, true_and, false_and, decide_true,
      decide_false, Bool.or_self, Bool.or_false, Bool.false_or]

/-! COMMAND words -/

section
variable (c a : BitVec 8) (b : BitVec 16)

theorem commandCode_append : commandCode (b ++ a ++ c) = c := BitVec.extractLsb'_append_eq_right

theorem commandArgA_append : commandArgA (b ++ a ++ c) = a :=
  (BitVec.extractLsb'_append_eq_of_le le_rfl).trans BitVec.extractLsb'_append_eq_right

theorem commandArgB_append : commandArgB (b ++ a ++ c) = b :=
  (BitVec.extractLsb'_append_eq_of_le (by decide)).trans BitVec.extractLsb'_append_eq_left

/-- A COMMAND word is the row of its code where the arguments that the command reads are in range, else invalid (R180,
R181, R195). -/
theorem commandOfWord_append {inTable : Bool} (htable : inTable = (TableIndex.ofArgs a b).isSome) :
    commandOfWord (b ++ a ++ c) =
      if c = 1 ∧ a.toNat < 4 then .portReset a else if c = 2 then .targetReset else if c = 3 then .softReset
      else if c = 4 ∧ (b = 64 ∨ b = 128 ∨ b = 256 ∨ b = 512) then .reshape b else if c = 5 then .logPop
      else if c = 6 then .logClear else if c = 7 ∧ inTable then .tableFetch a b
      else if c = 8 ∧ inTable then .tableCommit a b else .invalidCommand (b ++ a ++ c) := by
  unfold commandOfWord commandInRange
  rw [commandCode_append, commandArgA_append, commandArgB_append, isSome_portOfArg, isSome_mrsOfBytes, ← htable]
  cases hk : Command.ofCode c with
  | none =>
    have hne : ∀ k : Command, c ≠ k.code := fun k e => by
      rw [Command.ofCode_eq_some.2 e] at hk
      cases hk
    simp only [show c ≠ 1 from hne .portReset, show c ≠ 2 from hne .targetReset, show c ≠ 3 from hne .softReset,
      show c ≠ 4 from hne .reshape, show c ≠ 5 from hne .logPop, show c ≠ 6 from hne .logClear,
      show c ≠ 7 from hne .tableFetch, show c ≠ 8 from hne .tableCommit, false_and, if_false]
    rfl
  | some k =>
    obtain rfl := Command.ofCode_eq_some.1 hk
    cases k <;> simp [Command.code]

end

theorem commandOfWord_wellFormed (w : Word) : (commandOfWord w).wellFormed = true := by
  by_cases hr : commandInRange w = true
  · rw [commandOfWord, if_pos hr]
    unfold commandInRange at hr
    cases hk : Command.ofCode (commandCode w) with
    | none =>
      rw [hk] at hr
      cases hr
    | some k =>
      rw [hk] at hr
      cases k <;> exact hr
  · rw [commandOfWord, if_neg hr]
    simpa [Instr.wellFormed] using hr

/-- A word at an address without a row of its own is a REGISTER_WRITE, which spells every such address (R179). -/
theorem commandOfWrite_wellFormed (x : BitVec 16 × Word) : (commandOfWrite x).wellFormed = true := by
  unfold commandOfWrite
  split_ifs with hcommand hpending henable
  · exact commandOfWord_wellFormed x.2
  · rfl
  · rfl
  · simp only [Instr.wellFormed, plainAddress, Bool.and_eq_true, bne_iff_ne]
    exact ⟨⟨hcommand, hpending⟩, henable⟩

end Sys2Proof.Machine
end

section
/-! SUPPORT. The words of a frame (R178, R194): their addresses, and the order in which they are written. -/

namespace Sys2Proof.Machine

/-! The words with their addresses -/

theorem offset_succ (addr : BitVec 16) (i : Nat) : addr + 1 + BitVec.ofNat 16 i = addr + BitVec.ofNat 16 (i + 1) := by
  rw [Nat.add_comm i, BitVec.ofNat_add, ← BitVec.add_assoc]
  rfl

/-- Word `i` of a frame goes to the address `i` above the first, modulo 2^16 (R194). -/
theorem frameWords_eq_map_zipIdx (addr : BitVec 16) (words : List Word) :
    frameWords addr words = words.zipIdx.map fun (w, i) => (addr + BitVec.ofNat 16 i, w) := by
  induction words generalizing addr with
  | nil => rfl
  | cons w ws ih =>
    simp only [frameWords, ih, List.zipIdx_cons, List.zipIdx_succ, List.map_cons, List.map_map, Function.comp_def,
      offset_succ, BitVec.add_zero]

theorem mem_frameWords {addr : BitVec 16} {words : List Word} {x : BitVec 16 × Word} :
    x ∈ frameWords addr words ↔ ∃ i, words[i]? = some x.2 ∧ addr + BitVec.ofNat 16 i = x.1 := by
  obtain ⟨a, w⟩ := x
  simp [frameWords_eq_map_zipIdx, List.mem_zipIdx_iff_getElem?]

/-! The order of the words -/

/-- The relation by which the words of a frame are sorted. -/
abbrev AddrLe (x y : BitVec 16 × Word) : Prop := x.1.toNat ≤ y.1.toNat

theorem insertByAddr_eq_orderedInsert (x : BitVec 16 × Word) (l : List (BitVec 16 × Word)) :
    insertByAddr x l = l.orderedInsert AddrLe x := by
  induction l with
  | nil => rfl
  | cons y ys ih => rw [insertByAddr, List.orderedInsert_cons, ih]

/-- The words of a frame in ascending address, COMMAND at its place among the others. -/
def sortedFrame (addr : BitVec 16) (words : List Word) : List (BitVec 16 × Word) :=
  (frameWords addr words).insertionSort AddrLe

theorem frameOrder_eq (addr : BitVec 16) (words : List Word) :
    frameOrder addr words = (sortedFrame addr words).filter (·.1 != addrCommand) ++
      (sortedFrame addr words).filter (·.1 == addrCommand) := by
  have hsorted : (frameWords addr words).foldr insertByAddr [] = sortedFrame addr words := by
    rw [sortedFrame, List.insertionSort, funext₂ insertByAddr_eq_orderedInsert]
  rw [frameOrder, hsorted]

theorem sortedFrame_perm (addr : BitVec 16) (words : List Word) :
    (sortedFrame addr words).Perm (frameWords addr words) := List.perm_insertionSort ..

theorem sortedFrame_pairwise (addr : BitVec 16) (words : List Word) : (sortedFrame addr words).Pairwise AddrLe :=
  have : Std.Total AddrLe := ⟨fun _ _ => Nat.le_total ..⟩
  have : IsTrans _ AddrLe := ⟨fun _ _ _ => Nat.le_trans⟩
  List.pairwise_insertionSort ..

theorem frameOrder_perm (addr : BitVec 16) (words : List Word) :
    (frameOrder addr words).Perm (frameWords addr words) := by
  rw [frameOrder_eq]
  exact (List.perm_append_comm.trans (List.filter_append_perm (·.1 == addrCommand) _)).trans (sortedFrame_perm ..)

/-- Without COMMAND, the words of a frame are written in ascending address (R178). -/
theorem frameOrder_pairwise (addr : BitVec 16) (words : List Word) :
    ((frameOrder addr words).filter (·.1 != addrCommand)).Pairwise AddrLe := by
  have hothers : (frameOrder addr words).filter (·.1 != addrCommand) =
      (sortedFrame addr words).filter (·.1 != addrCommand) := by
    simp [frameOrder_eq, List.filter_filter, bne]
  rw [hothers]
  exact (sortedFrame_pairwise addr words).filter _

/-- A frame that reaches no address twice writes COMMAND once, after every other word (R178, R180). -/
theorem getLast?_frameOrder {addr : BitVec 16} {words : List Word} {i : Nat} (hlen : words.length ≤ 65536)
    (hi : i < words.length) (hcommand : addr + BitVec.ofNat 16 i = addrCommand) :
    (frameOrder addr words).getLast? = some (addrCommand, words[i]) := by
  have hmem {x : BitVec 16 × Word} : x ∈ (sortedFrame addr words).filter (·.1 == addrCommand) ↔
      x = (addrCommand, words[i]) := by
    rw [List.mem_filter, (sortedFrame_perm addr words).mem_iff, mem_frameWords, beq_iff_eq]
    constructor
    · rintro ⟨⟨j, hj, hat⟩, hx⟩
      obtain ⟨hlt, hw⟩ := List.getElem?_eq_some_iff.1 hj
      have hoff : BitVec.ofNat 16 j = BitVec.ofNat 16 i :=
        (BitVec.add_right_inj addr).1 (hat.trans (hx.trans hcommand.symm))
      have hji : j = i := by
        have := congrArg BitVec.toNat hoff
        simp only [BitVec.toNat_ofNat] at this
        omega
      subst hji
      exact Prod.ext hx hw.symm
    · rintro rfl
      exact ⟨⟨i, List.getElem?_eq_getElem hi, hcommand⟩, rfl⟩
  have hne := List.ne_nil_of_mem (hmem.2 rfl)
  rw [frameOrder_eq, List.getLast?_append_of_ne_nil _ hne, List.getLast?_eq_some_getLast hne,
    hmem.1 (List.getLast_mem hne)]

end Sys2Proof.Machine
end

section
/-! SUPPORT. The bytes of a frame (11.5): its header, its words, the rows of a write frame and the output of a read
frame (R177, R178). -/

namespace Sys2Proof.Machine

/-! Headers -/

theorem frameHeader_cons (d lo hi : Byte) (rest : List Byte) :
    frameHeader (d :: lo :: hi :: rest) = some (d.getLsbD 7, hi ++ lo) := by
  rw [frameHeader, ofNat16_leValue]

theorem frameHeader_of_short {bytes : List Byte} (hshort : bytes.length < 3) : frameHeader bytes = none := by
  match bytes, hshort with
  | [], _ => rfl
  | [_], _ => rfl
  | [_, _], _ => rfl

/-! Words as bytes -/

/-- The four bytes of a word, least significant first (11.5). -/
def wordBytes (w : Word) : List Byte :=
  [w.extractLsb' 0 8, w.extractLsb' 8 8, w.extractLsb' 16 8, w.extractLsb' 24 8]

theorem leBytes_toNat (w : Word) : leBytes 4 w.toNat = wordBytes w := by
  simp [leBytes, wordBytes, BitVec.extractLsb', Nat.shiftRight_eq_div_pow, Nat.div_div_eq_div_mul]

theorem ofNat_leValue_wordBytes (w : Word) : BitVec.ofNat 32 (leValue (wordBytes w)) = w := by
  rw [← leBytes_toNat]
  apply BitVec.eq_of_toNat_eq
  simp only [leBytes, leValue, BitVec.toNat_ofNat]
  omega

theorem wordsOf_wordBytes_append (w : Word) (rest : List Byte) :
    wordsOf (wordBytes w ++ rest) = (wordsOf rest).map (w :: ·) := by
  conv_rhs => rw [← ofNat_leValue_wordBytes w]
  rfl

/-- Whole words are read back, and what follows them is cut on its own. -/
theorem wordsOf_flatMap_append (words : List Word) (tail : List Byte) :
    wordsOf (words.flatMap wordBytes ++ tail) = (wordsOf tail).map (words ++ ·) := by
  induction words with
  | nil => simp
  | cons w ws ih =>
    rw [List.flatMap_cons, List.append_assoc, wordsOf_wordBytes_append, ih, Option.map_map]
    rfl

theorem wordsOf_flatMap (words : List Word) : wordsOf (words.flatMap wordBytes) = some words := by
  simpa [wordsOf] using wordsOf_flatMap_append words []

/-- A word that is cut short spoils the run (R178). -/
theorem wordsOf_flatMap_append_of_partial (words : List Word) {tail : List Byte} (hpos : 1 ≤ tail.length)
    (hshort : tail.length ≤ 3) : wordsOf (words.flatMap wordBytes ++ tail) = none := by
  have htail : wordsOf tail = none := by
    match tail, hpos, hshort with
    | [_], _, _ => rfl
    | [_, _], _, _ => rfl
    | [_, _, _], _, _ => rfl
  rw [wordsOf_flatMap_append, htail, Option.map_none]

/-! Rows (R177, R178) -/

theorem frameRows_of_short {bytes : List Byte} (hshort : bytes.length < 3) :
    frameRows bytes = [.writeFrameDiscard] := by
  rw [frameRows, frameHeader_of_short hshort]

section
variable {d : Byte} (lo hi : Byte) {rest : List Byte}

theorem frameRows_of_read (hd : d.getLsbD 7 = false) : frameRows (d :: lo :: hi :: rest) = [] := by
  rw [frameRows, frameHeader_cons, hd]

theorem frameRows_of_words (hd : d.getLsbD 7 = true) {w : Word} {words : List Word}
    (hwords : wordsOf rest = some (w :: words)) :
    frameRows (d :: lo :: hi :: rest) = frameCommands (hi ++ lo) (w :: words) := by
  rw [frameRows, frameHeader_cons, hd, List.drop_succ_cons, List.drop_succ_cons, List.drop_succ_cons, List.drop_zero]
  simp only [hwords]

theorem frameRows_of_no_words (hd : d.getLsbD 7 = true) (hwords : wordsOf rest = some [] ∨ wordsOf rest = none) :
    frameRows (d :: lo :: hi :: rest) = [.writeFrameDiscard] := by
  rw [frameRows, frameHeader_cons, hd, List.drop_succ_cons, List.drop_succ_cons, List.drop_succ_cons, List.drop_zero]
  rcases hwords with hnone | hcut
  · simp only [hnone]
  · simp only [hcut]

end

/-! The output of a read frame (R177, 11.5) -/

theorem readWords_eq_map (s : State) (addr : BitVec 16) (n : Nat) :
    readWords s addr n = (List.range n).map fun k => readWord s (addr + BitVec.ofNat 16 k) := by
  induction n generalizing addr with
  | zero => rfl
  | succ n ih =>
    simp only [readWords, ih, List.range_succ_eq_map, List.map_cons, List.map_map, Function.comp_def, offset_succ,
      BitVec.add_zero]

theorem readFrame_of_no_header {bytes : List Byte} (hnone : frameHeader bytes = none) (s : State) (n : Nat) :
    readFrame s bytes n = none := by
  rw [readFrame, hnone, ite_self]

theorem readFrame_of_write {bytes : List Byte} {addr : BitVec 16} (hwrite : frameHeader bytes = some (true, addr))
    (s : State) (n : Nat) : readFrame s bytes n = none := by
  rw [readFrame, hwrite, ite_self]

theorem readFrame_of_read {bytes : List Byte} {addr : BitVec 16} (hread : frameHeader bytes = some (false, addr))
    {s : State} (hs : s.hold = none) (n : Nat) :
    readFrame s bytes n =
      some ((List.range n).flatMap fun k => wordBytes (readWord s (addr + BitVec.ofNat 16 k))) := by
  simp only [readFrame, inHold_of_none hs, hread, readWords_eq_map, List.flatMap_map, leBytes_toNat]
  rfl

end Sys2Proof.Machine

namespace Sys2Proof.Proofs

open Sys2Proof.Machine

/-- Settles O37: packets by `hostUnusable_iff`, `targetUnusable_iff` and the layout of each kind, the order of a frame
by `frameOrder_perm`, `frameOrder_pairwise` and `getLast?_frameOrder`, COMMAND words by `commandOfWord_append`, and the
bytes of a frame by its header and `wordsOf_flatMap_append`. -/
theorem bytesStandForCommands : Obligations.BytesStandForCommands := by
  refine ⟨fun h bytes s hs => ⟨takes_next hs fun s => s, takes_next hs fun s => s⟩, fun h bytes => ?unusable,
    fun h b1 b2 b3 b4 b5 b6 b7 b8 b9 b10 b11 b12 b13 b14 b15 rest x => ?fields, fun addr words => ?order,
    fun addr w => rfl, fun c a b inTable htable => ?command, fun d lo hi w words tail rest n s le hle => ?frame⟩
  case unusable =>
    exact ⟨(hostCommand_eq_unusable_iff h bytes).trans (hostUnusable_iff bytes),
      (targetCommand_eq_unusable_iff bytes).trans (targetUnusable_iff bytes), hostCommand_wellFormed h bytes,
      targetCommand_wellFormed bytes⟩
  case fields =>
    exact ⟨hostCommand_attach .., hostCommand_request .., hostCommand_credit .., hostCommand_noticeAck ..,
      targetCommand_trainAck .., targetCommand_tcpl _ _ _ _ _ _ _ _, targetCommand_tcredit ..⟩
  case order =>
    refine ⟨rfl, frameWords_eq_map_zipIdx addr words ▸ frameOrder_perm addr words, frameOrder_pairwise addr words,
      fun i hlen hi hcommand => ?_, fun c hc => ?_⟩
    · rw [frameCommands, List.getLast?_map, getLast?_frameOrder hlen hi hcommand, List.getD_eq_getElem _ _ hi]
      rfl
    · obtain ⟨x, -, rfl⟩ := List.mem_map.1 hc
      exact commandOfWrite_wellFormed x
  case command => exact commandOfWord_append c a b (htable.trans (TableIndex.isSome_ofArgs a b).symm)
  case frame =>
    obtain rfl : le = wordBytes := funext hle
    refine ⟨fun hd => ?write, fun hd => ?read, fun hshort => ?short⟩
    case write =>
      exact ⟨frameRows_of_words lo hi hd (wordsOf_flatMap _), frameRows_of_no_words lo hi hd (.inl rfl),
        readFrame_of_write (by rw [frameHeader_cons, hd]) s n,
        fun hpos hlen => frameRows_of_no_words lo hi hd (.inr (wordsOf_flatMap_append_of_partial words hpos hlen))⟩
    case read =>
      exact ⟨frameRows_of_read lo hi hd, fun hs => readFrame_of_read (by rw [frameHeader_cons, hd]) hs n⟩
    case short => exact ⟨frameRows_of_short hshort, readFrame_of_no_header (frameHeader_of_short hshort) s n⟩

end Sys2Proof.Proofs
end

/-! Proofs about a step as a whole: the command that it takes, and the byte memories that it leaves. -/

section
/-! SUPPORT. The bytes that the part holds (R28, R54): most operations leave them as they stand. -/

namespace Sys2Proof.Machine

/-- The bytes of the Response Buffer and of each port's staging area. -/
def State.memories (s : State) : Memory × (Port → Memory) := (s.buffer, fun h => (s.port h).staging)

/-- The canonical form rests on the bytes alone. -/
theorem MemoriesCanonical.of_memories {s t : State} (hs : MemoriesCanonical s) (ht : t.memories = s.memories) :
    MemoriesCanonical t :=
  (congrArg (fun m : Memory × (Port → Memory) => m.1.wf ∧ ∀ h, (m.2 h).wf) ht).mpr hs

/-! The staging area of a port: only the acceptance of a request and a part reset write it -/

@[simp] theorem enterReady_staging (i : Slot) (st : HostStatus) (p : PortState) :
    (enterReady i st p).staging = p.staging :=
  (intakeOnly_enterReady i st p).staging

@[simp] theorem vacate_staging (i : Slot) (p : PortState) : (vacate i p).staging = p.staging :=
  (intakeOnly_vacate i p).staging

@[simp] theorem fenceTest_staging (p : PortState) : (fenceTest p).staging = p.staging := (intakeOnly_fenceTest p).staging

@[simp] theorem readyTest_staging (m : ErrorMap) (i : Slot) (p : PortState) : (readyTest m i p).staging = p.staging :=
  (intakeOnly_readyTest m i p).staging

@[simp] theorem retireAt_staging (m : ErrorMap) (i : Slot) (n : Nat) (o : SubOutcome) (p : PortState) :
    (retireAt m i n o p).staging = p.staging :=
  (intakeOnly_retireAt m i n o p).staging

@[simp] theorem raiseNotice_staging (bits : NoticeBits) (p : PortState) : (raiseNotice bits p).staging = p.staging :=
  (congrArg PortState.staging (raiseNotice_frame bits p).1 :)

@[simp] theorem report_staging (p : PortState) : (report p).staging = p.staging :=
  (congrArg PortState.staging (report_frame p) :)

@[simp] theorem grantSlot_staging (x : Head) (tag : Option Tag) (blocks : List Block) (p : PortState) :
    (grantSlot x tag blocks p).staging = p.staging := by
  unfold grantSlot
  split
  · exact vacate_staging ..
  · rfl

@[simp] theorem cutOff_staging (f : CutForm) (p : PortState) : (cutOff f p).staging = p.staging := by
  rw [cutOff_eq]

@[simp] theorem enterDown_staging (p : PortState) : (enterDown p).staging = p.staging := rfl

@[simp] theorem enterHoldoff_staging (now : Tick) (p : PortState) : (enterHoldoff now p).staging = p.staging :=
  cutOff_staging .stopped p

@[simp] theorem resetPort_staging (now : Tick) (c : EndCause) (p : PortState) :
    (resetPort now c p).staging = p.staging :=
  cutOff_staging (cutFormOf c) p

@[simp] theorem openSession_staging (up : Bool) (mask : NoticeBits) (hdr data : Nat) (p : PortState) :
    (openSession up mask hdr data p).staging = p.staging :=
  cutOff_staging .closed p

@[simp] theorem stallTick_staging (w : Nat) (p : PortState) : (stallTick w p).staging = p.staging := by
  unfold stallTick
  dsimp only
  split <;> rfl

theorem acknowledge_staging (bits : NoticeBits) (p : PortState) : (acknowledge bits p).staging = p.staging := by
  unfold acknowledge
  split <;> rfl

theorem startIf_staging (o : Outbound) {f : PortState → PortState} (hf : ∀ p, (f p).staging = p.staging)
    (p : PortState) : (startIf o f p).staging = p.staging := by
  unfold startIf
  split
  · exact hf p
  · rfl

theorem startAnswer_staging (p : PortState) : (startAnswer p).staging = p.staging := by
  unfold startAnswer
  split <;> rfl

theorem startResponse_staging (buffer : Memory) (p : PortState) : (startResponse buffer p).staging = p.staging := by
  unfold startResponse
  split
  · rfl
  · split <;> rfl

theorem endResponse_staging (p : PortState) : (endResponse p).staging = p.staging := by
  unfold endResponse
  split
  · exact vacate_staging ..
  · rfl

theorem endGrant_staging (p : PortState) : (endGrant p).staging = p.staging := by
  unfold endGrant
  split <;> rfl

theorem endOther_staging (p : PortState) : (endOther p).staging = p.staging := by
  unfold endOther
  split <;> rfl

/-! The shared operations -/

theorem memories_of_eq {s t : State} (hbuffer : t.buffer = s.buffer) (hports : t.ports = s.ports) :
    t.memories = s.memories := by
  simp only [State.memories, State.port, hbuffer, hports]

theorem memories_modPort {s : State} {h : Port} {f : PortState → PortState}
    (hf : (f (s.port h)).staging = (s.port h).staging) : (s.modPort h f).memories = s.memories := by
  refine Prod.ext rfl (funext fun g => ?_)
  simp only [State.memories, port_modPort]
  split
  · subst g
    exact hf
  · rfl

theorem memories_modPorts {f : PortState → PortState} (hf : ∀ p, (f p).staging = p.staging) (s : State) :
    (s.modPorts f).memories = s.memories :=
  Prod.ext rfl (funext fun h => (congrArg PortState.staging (port_modPorts s f h)).trans (hf _))

theorem memories_foldl {α : Type} {f : State → α → State} (hf : ∀ s a, (f s a).memories = s.memories) (l : List α)
    (s : State) : (l.foldl f s).memories = s.memories :=
  foldl_keeps (P := fun a : State => a.memories = s.memories) (fun a b ha => (hf a b).trans ha) l rfl

theorem memories_setTag (s : State) (t : Tag) (r : Option TagRec) : (s.setTag t r).memories = s.memories := rfl

theorem memories_raiseEvent (e : Nat) (s : State) : (raiseEvent e s).memories = s.memories := rfl

theorem memories_setResult (c : BitVec 8) (r : CmdResult) (s : State) : (setResult c r s).memories = s.memories := rfl

theorem memories_modTarget (s : State) (f : TargetLane → TargetLane) : (s.modTarget f).memories = s.memories := rfl

theorem memories_reportAll (s : State) : (reportAll s).memories = s.memories := memories_modPorts report_staging s

theorem memories_appendLog (e : LogEntry) (s : State) : (appendLog e s).memories = s.memories :=
  memories_of_eq (appendLog_buffer e s) (appendLog_ports e s)

theorem memories_drainTest (s : State) : (drainTest s).memories = s.memories :=
  memories_of_eq (drainTest_buffer s) (drainTest_ports s)

theorem memories_fenceTest (h : Port) (s : State) : (s.modPort h fenceTest).memories = s.memories :=
  memories_modPort (fenceTest_staging _)

theorem memories_raiseNotice (h : Port) (bits : NoticeBits) (s : State) :
    (s.modPort h (raiseNotice bits)).memories = s.memories :=
  memories_modPort (raiseNotice_staging ..)

theorem memories_enterHoldoff (h : Port) (s : State) : (s.modPort h (enterHoldoff s.timebase)).memories = s.memories :=
  memories_modPort (enterHoldoff_staging ..)

theorem memories_retire (h : Port) (i : Slot) (n : Nat) (o : SubOutcome) (s : State) :
    (retire h i n o s).memories = s.memories := by
  refine Prod.ext (retire_buffer h i n o s) (funext fun g => ?_)
  simp only [State.memories, retire_port]
  split
  · subst g
    exact retireAt_staging ..
  · rfl

theorem memories_retireAll (o : SubOutcome) (es : List (Port × Slot × Nat × Tag)) (s : State) :
    (retireAll o es s).memories = s.memories :=
  foldl_keeps (P := fun a : State => a.memories = s.memories) (fun _ _ ha => (memories_retire ..).trans ha) es rfl

theorem memories_lapse (t : Tag) (r : TagRec) (s : State) : (lapse t r s).memories = s.memories :=
  memories_of_eq (lapse_buffer t r s) (lapse_ports t r s)

/-- A port reset gives the staging blocks back and leaves their bytes (R46). -/
theorem memories_portResetTaken (h : Port) (c : EndCause) (s : State) :
    (portResetTaken h c s).memories = s.memories := by
  refine Prod.ext (portResetTaken_buffer h c s) (funext fun g => ?_)
  by_cases hg : g = h
  · subst g
    exact (congrArg PortState.staging (portResetTaken_port_same h c s)).trans (resetPort_staging ..)
  · exact congrArg PortState.staging (portResetTaken_port_ne c s hg)

/-! Evaluations, grants and the drain (03) -/

theorem Evaluated.memories {s e : State} (h : Evaluated s e) : e.memories = s.memories :=
  Prod.ext h.buffer (funext h.staging)

theorem memories_grantWith (h : Port) (x : Head) (tag : Option Tag) (s : State) :
    (grantWith h x tag s).memories = s.memories := by
  have htaken : (tagTaken h x tag s).memories = s.memories :=
    (congrArg State.memories (tagTaken_frame h x tag s) :)
  have hslot (blocks : List Block) :
      ((tagTaken h x tag s).modPort h fun p => fenceTest (grantSlot x tag blocks p)).memories = s.memories :=
    (memories_modPort (by simp)).trans htaken
  exact (memories_drainTest (granted h x tag s)).trans (hslot _)

theorem memories_issueGrantStep (s : State) : (issueGrantStep s).memories = s.memories := by
  have heval := (evaluated_evaluate s).memories
  unfold issueGrantStep
  dsimp only
  split
  · exact heval
  · split
    · exact (memories_grantWith ..).trans heval
    · exact heval

theorem memories_grantRetry (t : Tag) (r : TagRec) (d : Tick) (s : State) :
    (grantRetry t r d s).memories = s.memories :=
  memories_of_eq rfl rfl

theorem memories_retryGrantStep (s : State) : (retryGrantStep s).memories = s.memories := by
  have heval := (evaluated_evaluate s).memories
  unfold retryGrantStep
  dsimp only
  split
  · exact (memories_grantRetry ..).trans heval
  · exact heval

theorem memories_takeDrainLimit (s : State) : (takeDrainLimit s).memories = s.memories := by
  unfold takeDrainLimit
  split
  · rfl
  · split
    · exact memories_appendLog ..
    · rfl

/-! The target lane (08) -/

theorem memories_dropPost (h : Port) (i : Slot) (s : State) : (dropPost h i s).memories = s.memories := by
  unfold dropPost
  split
  · rfl
  · exact (memories_modPort (by simp)).trans (memories_appendLog ..)

theorem memories_failRecord (h : Port) (i : Slot) (s : State) : (failRecord h i s).memories = s.memories := by
  have hready : (s.modPort h (enterReady i .unavailable)).memories = s.memories :=
    memories_modPort (enterReady_staging ..)
  unfold failRecord
  split
  · rfl
  · split
    · split
      · exact hready
      · exact hready
      · exact memories_dropPost h i s
      · rfl
    · rfl

theorem memories_failPorts (s : State) : (failPorts s).memories = s.memories := by
  refine memories_foldl (fun a h => ?_) _ s
  split
  · exact memories_foldl (fun b i => (memories_fenceTest h _).trans (memories_failRecord h i b)) _ a
  · rfl

theorem memories_releaseAll (s : State) : (releaseAll s).memories = s.memories := by
  obtain ⟨hports, -, -, hbuffer, -⟩ := releaseAll_frame s
  exact (memories_of_eq (hbuffer.trans (retireAll_buffer ..).symm) hports).trans (memories_retireAll ..)

theorem memories_targetLoss (c : DownCause) (s : State) : (targetLoss c s).memories = s.memories := by
  unfold targetLoss
  exact ((((memories_appendLog ..).trans (memories_modPorts (raiseNotice_staging _) _)).trans
    (memories_failPorts _)).trans (memories_releaseAll _)).trans (memories_modTarget ..)

theorem memories_loseTarget (s : State) : (loseTarget s).memories = s.memories := by
  unfold loseTarget
  dsimp only
  split
  · rfl
  · exact memories_targetLoss ..
  · rfl
  · rfl

theorem memories_downWith (c : DownCause) (s : State) : (downWith c s).memories = s.memories := by
  unfold downWith
  split
  · rfl
  · exact memories_targetLoss c s
  · rfl
  · rfl

theorem memories_endStranded (m : Mrs) (h : Port) (i : Slot) (s : State) :
    (endStranded m h i s).memories = s.memories := by
  unfold endStranded
  split
  · rfl
  · split
    · split
      · exact (memories_fenceTest ..).trans (memories_dropPost ..)
      · exact memories_modPort ((fenceTest_staging _).trans (readyTest_staging ..))
    · rfl

theorem memories_endAllStranded (m : Mrs) (s : State) : (endAllStranded m s).memories = s.memories :=
  memories_foldl (fun a h => memories_foldl (fun b i => memories_endStranded m h i b) _ a) _ s

theorem memories_bringUp (hdr data : Nat) (m : Mrs) (s : State) : (bringUp hdr data m s).memories = s.memories := by
  unfold bringUp
  exact ((((memories_drainTest _).trans (memories_modTarget ..)).trans
    (memories_modPorts (raiseNotice_staging _) _)).trans (memories_endAllStranded ..)).trans (memories_modTarget ..)

theorem memories_takeTrainAck (hdr data size : Nat) (s : State) :
    (takeTrainAck hdr data size s).memories = s.memories := by
  unfold takeTrainAck
  split
  · split
    · exact memories_bringUp ..
    · rfl
  · rfl
  · rfl
  · rfl

theorem memories_takeTcredit (hdr data : Nat) (s : State) : (takeTcredit hdr data s).memories = s.memories := by
  unfold takeTcredit
  split
  · rfl
  · exact memories_targetLoss ..

theorem memories_detectTarget (s : State) : (detectTarget s).memories = s.memories := by
  unfold detectTarget
  dsimp only
  split <;> rfl

theorem memories_takeTrainEnd (s : State) : (takeTrainEnd s).memories = s.memories := by
  unfold takeTrainEnd
  split
  · split <;> rfl
  · rfl

theorem memories_endTargetHoldoff (s : State) : (endTargetHoldoff s).memories = s.memories := by
  unfold endTargetHoldoff
  split
  · split
    · split <;> rfl
    · rfl
  · rfl

/-! Host lanes and sessions (06, 07) -/

theorem memories_attachHandshake (h : Port) (mask : NoticeBits) (hdr data : Nat) (s : State) :
    (attachHandshake h mask hdr data s).memories = s.memories := by
  unfold attachHandshake
  split
  · exact memories_modPort rfl
  · exact (memories_raiseEvent ..).trans (memories_modPort (openSession_staging ..))

theorem memories_takeAttach (h : Port) (mask : NoticeBits) (hdr data : Nat) (s : State) :
    (takeAttach h mask hdr data s).memories = s.memories := by
  unfold takeAttach
  split
  · exact memories_attachHandshake ..
  · exact memories_attachHandshake ..
  · exact (memories_attachHandshake ..).trans (memories_portResetTaken ..)
  · rfl
  · rfl

theorem memories_portResetOnLane (h : Port) (s : State) : (portResetOnLane h s).memories = s.memories := by
  unfold portResetOnLane
  split
  · exact memories_portResetTaken ..
  · exact memories_enterHoldoff h s
  · exact memories_enterHoldoff h s
  · rfl
  · rfl

theorem memories_disableLane (h : Port) (s : State) : (disableLane h s).memories = s.memories := by
  unfold disableLane
  split
  · exact memories_portResetTaken ..
  · exact memories_enterHoldoff h s
  · rfl
  · rfl
  · rfl

theorem memories_failCheck (h : Port) (s : State) : (failCheck h s).memories = s.memories := by
  unfold failCheck
  split
  · exact memories_enterHoldoff h s
  · exact memories_enterHoldoff h s
  · exact memories_portResetTaken ..
  · rfl
  · rfl

theorem memories_loseCarrier (h : Port) (s : State) : (loseCarrier h s).memories = s.memories := by
  have hlevel : (s.modPort h fun p => { p with carrier := false }).memories = s.memories := memories_modPort rfl
  have hdown (a : State) : (a.modPort h fun p => enterDown (cutOff .closed p)).memories = a.memories :=
    memories_modPort ((enterDown_staging _).trans (cutOff_staging ..))
  unfold loseCarrier
  dsimp only
  split
  · exact (hdown _).trans hlevel
  · exact (hdown _).trans hlevel
  · exact (memories_portResetTaken ..).trans hlevel
  · exact hlevel
  · exact hlevel

theorem memories_endHoldoff (h : Port) (s : State) : (endHoldoff h s).memories = s.memories := by
  unfold endHoldoff
  split
  · exact memories_modPort (enterDown_staging _)
  · rfl

theorem memories_takeStallExpiry (h : Port) (s : State) : (takeStallExpiry h s).memories = s.memories := by
  have hnoted (e : LogEntry) : (raiseEvent (eventStall h) (appendLog e s)).memories = s.memories := memories_appendLog e s
  unfold takeStallExpiry
  split
  · dsimp only
    split
    · exact (memories_modPort rfl).trans (hnoted _)
    · exact (memories_portResetTaken ..).trans (hnoted _)
    · exact (memories_portResetTaken ..).trans (hnoted _)
  · rfl

/-! The expiries and the tick (05) -/

theorem memories_expireTag (t : Tag) (s : State) : (expireTag t s).memories = s.memories := by
  unfold expireTag
  split
  · rfl
  · dsimp only
    split
    · rfl
    · rfl
    · exact (memories_appendLog ..).trans (memories_lapse ..)
    · exact (memories_appendLog ..).trans (memories_lapse ..)

theorem memories_takeDeadlines (s : State) : (takeDeadlines s).memories = s.memories :=
  ((memories_drainTest _).trans (memories_retireAll ..)).trans (memories_foldl (fun a t => memories_expireTag t a) _ s)

theorem memories_takeBackoffEnds (s : State) : (takeBackoffEnds s).memories = s.memories := by
  refine memories_foldl (fun a t => ?_) _ s
  unfold endBackoff
  split
  · rfl
  · split <;> rfl

theorem memories_takeQuarantineEnds (s : State) : (takeQuarantineEnds s).memories = s.memories :=
  memories_foldl (fun a t => memories_setTag a t none) _ s

theorem memories_closeTick (s : State) : (closeTick s).memories = s.memories := by
  unfold closeTick
  exact ((((((((memories_takeTrainEnd _).trans (memories_endTargetHoldoff _)).trans
    (memories_foldl (fun a h => memories_endHoldoff h a) allPorts _)).trans
    (memories_foldl (fun a h => memories_takeStallExpiry h a) allPorts _)).trans (memories_takeDrainLimit _)).trans
    (memories_takeQuarantineEnds _)).trans (memories_takeBackoffEnds _)).trans (memories_reportAll _)).trans
    (memories_takeDeadlines s)

theorem memories_advance (s : State) : (advance s).memories = s.memories :=
  memories_foldl (fun _ _ => memories_modPort (stallTick_staging ..)) allPorts { s with timebase := s.timebase + 1 }

/-! Requests that are rejected or dropped (02), and completion parts that place no byte (04) -/

theorem memories_rejectRequest (h : Port) (i : Slot) (r : ReqRec) (st : HostStatus) (s : State) :
    (rejectRequest h i r st s).memories = s.memories :=
  memories_modPort (enterReady_staging ..)

theorem memories_dropAtIntake (h : Port) (r : ReqRec) (addr : BitVec 48) (st : HostStatus) (s : State) :
    (dropAtIntake h r addr st s).memories = s.memories :=
  (memories_appendLog ..).trans (memories_modPort (raiseNotice_staging noticePostedRejected _))

theorem memories_malformedRequest (h : Port) (d n : Nat) (s : State) :
    (malformedRequest h d n s).memories = s.memories :=
  (memories_appendLog ..).trans (memories_modPort (raiseNotice_staging noticeMalformedRequest _))

theorem memories_admitRequest (h : Port) (i : Slot) (r : ReqRec) (id : HostId) (addr : BitVec 48) (s : State) :
    (admitRequest h i r id addr s).memories = s.memories := by
  unfold admitRequest
  dsimp only
  split
  · exact memories_rejectRequest ..
  · split
    · exact memories_modPort (fenceTest_staging _)
    · split
      · exact memories_modPort rfl
      · split
        · exact memories_dropAtIntake ..
        · exact memories_rejectRequest ..

theorem memories_acceptData (t : Tag) (r : TagRec) (d : Tick) (n : Nat) (s : State) :
    (acceptData t r d n s).memories = s.memories := by
  rw [acceptData_eq]
  rfl

theorem memories_takeRetry (t : Tag) (r : TagRec) (d : Tick) (s : State) : (takeRetry t r d s).memories = s.memories := by
  unfold takeRetry
  split
  · rfl
  · exact (memories_retire ..).trans (memories_appendLog ..)

theorem memories_orphanPart (t : Tag) (r : TagRec) (d : Tick) (q : Part) (s : State) :
    (orphanPart t r d q s).memories = s.memories := by
  unfold orphanPart
  split
  · exact (memories_appendLog ..).trans (memories_lapse ..)
  · rfl
  · rfl
  · exact memories_acceptData ..

/-! Commands of the management port (10) -/

theorem memories_commandReshape (b : BitVec 16) (s : State) : (commandReshape b s).memories = s.memories := by
  unfold commandReshape
  split
  · rfl
  · split
    · rfl
    · exact memories_drainTest (drainStarted _ s)

theorem memories_commandPortReset (a : BitVec 8) (s : State) : (commandPortReset a s).memories = s.memories := by
  unfold commandPortReset
  split
  · rfl
  · exact memories_portResetOnLane ..

theorem memories_commandTargetReset (s : State) : (commandTargetReset s).memories = s.memories :=
  memories_downWith .targetReset s

theorem memories_commandTableFetch (a : BitVec 8) (b : BitVec 16) (s : State) :
    (commandTableFetch a b s).memories = s.memories := by
  unfold commandTableFetch
  split <;> rfl

theorem memories_noticeChange (h : Port) (b : Bool) (s : State) : (noticeChange h b s).memories = s.memories := by
  unfold noticeChange
  split
  · exact memories_raiseNotice ..
  · rfl

theorem memories_commitTable {s t : State} {x : TableIndex} (ht : commitTable x s = some t) :
    t.memories = s.memories := by
  cases x with
  | port h =>
    obtain ⟨p, -, -, rfl⟩ := commitPort_eq_some.1 ht
    refine (memories_noticeChange ..).trans ?_
    split
    · rfl
    · exact memories_disableLane ..
  | window i =>
    obtain ⟨-, rfl⟩ := commitWindow_eq_some.1 ht
    exact memories_noticeChange ..
  | global =>
    obtain ⟨g, -, rfl⟩ := commitGlobal_eq_some.1 ht
    rfl

theorem memories_commandTableCommit (a : BitVec 8) (b : BitVec 16) (s : State) :
    (commandTableCommit a b s).memories = s.memories := by
  unfold commandTableCommit
  split
  · rfl
  · split
    · rfl
    · exact (memories_setResult ..).trans (memories_commitTable ‹_›)

end Sys2Proof.Machine
end

section
/-! SUPPORT. The commands that write bytes: a REQUEST stores its data in staging (R28), a TCPL places its data in the
Response Buffer (R80), and a part reset empties the memories (log 15). -/

namespace Sys2Proof.Machine

/-! Every other command -/

/-- The commands that can store bytes or clear the memories. A register write counts, as the COMMAND word can be a
SOFT_RESET. -/
def writesBytes : Instr → Bool
  | .request _ _ _ _ _ _ _ => true
  | .tcpl _ _ _ _ => true
  | .registerWrite _ _ => true
  | .softReset => true
  | .powerOnReset => true
  | .pinReset => true
  | _ => false

theorem takes_memories {s t : State} {f : State → State} (hf : ∀ a, (f a).memories = a.memories)
    (ht : takes f s = .next t) : t.memories = s.memories :=
  takes_keeps (P := fun a : State => a.memories = s.memories) (fun a ha => (hf a).trans ha) rfl ht

/-- An event and the reports after it. -/
theorem takes_reported_memories {s t : State} {f : State → State} (hf : ∀ a, (f a).memories = a.memories)
    (ht : takes (fun a => reportAll (f a)) s = .next t) : t.memories = s.memories :=
  takes_memories (fun a => (memories_reportAll _).trans (hf a)) ht

/-- An event of one port, and the reports after it. -/
theorem takes_port_memories {s t : State} {h : Port} (f : State → PortState → PortState)
    (hf : ∀ a p, (f a p).staging = p.staging) (ht : takes (fun a => reportAll (a.modPort h (f a))) s = .next t) :
    t.memories = s.memories :=
  takes_reported_memories (fun a => memories_modPort (hf a _)) ht

/-- A phase of an evaluation, or its grant, and the reports after it. -/
theorem takes_opportunity_memories {s t : State} {f : State → State} (hf : ∀ a, (f a).memories = a.memories)
    (ht : takes (fun a => reportAll (atOpportunity f a)) s = .next t) : t.memories = s.memories :=
  takes_reported_memories
    (fun a => atOpportunity_keeps (P := fun b : State => b.memories = a.memories) (fun b hb => (hf b).trans hb) rfl) ht

/-- An event taken under a condition. -/
theorem memories_when (c : State → Bool) {f : State → State} (hf : ∀ a, (f a).memories = a.memories) (s : State) :
    (if c s then f s else s).memories = s.memories := by
  split
  · exact hf s
  · rfl

theorem memories_invalidCommand (w : Word) (s : State) :
    (if commandInRange w then s else answerInvalid (commandCode w) s).memories = s.memories := by
  split <;> rfl

/-- Every command but these leaves the bytes as they stand. -/
theorem exec_memories {c : Instr} {s t : State} (hc : writesBytes c = false) (ht : exec c s = .next t) :
    t.memories = s.memories := by
  cases c with
  | request | tcpl | registerWrite | softReset | powerOnReset | pinReset => cases hc
  | tickEvent => exact takes_memories (fun a => (memories_advance _).trans (memories_closeTick a)) ht
  | deadlineExpiry => exact takes_reported_memories memories_takeDeadlines ht
  | backoffEnd => exact takes_memories memories_takeBackoffEnds ht
  | quarantineEnd => exact takes_memories memories_takeQuarantineEnds ht
  | drainLimitExpiry => exact takes_memories memories_takeDrainLimit ht
  | drainComplete => exact takes_memories memories_drainTest ht
  | stallExpiry h => exact takes_memories (memories_takeStallExpiry h) ht
  | hostCarrierDetect h =>
    cases ht
    split <;> exact memories_modPort rfl
  | hostCarrierLoss h =>
    cases ht
    split
    · exact memories_modPort rfl
    · exact memories_loseCarrier h s
  | hostCheckFailure h => exact takes_memories (memories_failCheck h) ht
  | hostHoldoffEnd h => exact takes_memories (memories_endHoldoff h) ht
  | attach h mask hdr data => exact takes_reported_memories (memories_takeAttach h mask hdr.toNat data.toNat) ht
  | credit h hdr data =>
    exact takes_memories (memories_when (fun a => (a.port h).isActive) fun _ =>
      (memories_reportAll _).trans (memories_modPort (f := takeCredit hdr.toNat data.toNat) rfl)) ht
  | noticeAck h bits =>
    exact takes_memories (memories_when (fun a => (a.port h).isActive) fun _ =>
      (memories_reportAll _).trans (memories_modPort (acknowledge_staging bits _))) ht
  | hostUnusablePacket h bytes => exact takes_memories (fun _ => rfl) ht
  | attachAnswerStart h =>
    exact takes_port_memories (fun _ => startIf .answer startAnswer)
      (fun _ => startIf_staging .answer startAnswer_staging) ht
  | grantTransmissionStart h =>
    exact takes_port_memories (fun _ => startIf .grant startGrant) (fun _ => startIf_staging .grant fun _ => rfl) ht
  | noticeTransmissionStart h =>
    exact takes_port_memories (fun _ => startIf .notice startNotice) (fun _ => startIf_staging .notice fun _ => rfl) ht
  | responseTransmissionStart h =>
    exact takes_port_memories (fun a => startIf .response (startResponse a.buffer))
      (fun a => startIf_staging .response (startResponse_staging a.buffer)) ht
  | responseTransmissionEnd h => exact takes_port_memories (fun _ => endResponse) (fun _ => endResponse_staging) ht
  | grantTransmissionEnd h => exact takes_port_memories (fun _ => endGrant) (fun _ => endGrant_staging) ht
  | hostTransmissionEnd h => exact takes_port_memories (fun _ => endOther) (fun _ => endOther_staging) ht
  | targetCarrierDetect =>
    cases ht
    split
    · rfl
    · exact memories_detectTarget s
  | targetCarrierLoss =>
    cases ht
    split
    · rfl
    · exact (memories_reportAll _).trans (memories_loseTarget s)
  | targetCheckFailure => exact takes_reported_memories (memories_downWith .protocol) ht
  | trainAck hdr data size =>
    exact takes_reported_memories (memories_takeTrainAck hdr.toNat data.toNat size.toNat) ht
  | trainEndTickExpiry => exact takes_memories memories_takeTrainEnd ht
  | targetHoldoffEnd => exact takes_memories memories_endTargetHoldoff ht
  | tcredit hdr data =>
    exact takes_memories (memories_when State.targetUp fun a =>
      (memories_reportAll _).trans (memories_takeTcredit hdr.toNat data.toNat a)) ht
  | targetUnusablePacket bytes => exact takes_memories (fun _ => rfl) ht
  | treqTransmissionEnd => exact takes_memories (f := fun a => a.modTarget endTreq) (fun _ => rfl) ht
  | issueGrant => exact takes_opportunity_memories memories_issueGrantStep ht
  | retryGrant => exact takes_opportunity_memories memories_retryGrantStep ht
  | claimEntry =>
    exact takes_opportunity_memories
      (fun a => ((evaluated_ceilingRetires a).trans (evaluated_enterClaims _)).memories) ht
  | dataCreditHold => exact takes_opportunity_memories (fun a => (evaluated_evaluate a).memories) ht
  | readCeilingRetire => exact takes_opportunity_memories (fun a => (evaluated_ceilingRetires a).memories) ht
  | fenceReady h => exact takes_port_memories (fun _ => fenceTest) (fun _ => fenceTest_staging) ht
  | eventPendingWrite w => exact takes_memories (f := writePending w) (fun _ => rfl) ht
  | eventEnableWrite w => exact takes_memories (f := writeEnable w) (fun _ => rfl) ht
  | writeFrameDiscard => exact takes_memories (f := endFrame) (fun _ => rfl) ht
  | invalidCommand w => exact takes_memories (memories_invalidCommand w) ht
  | portReset a => exact takes_memories (memories_commandPortReset a) ht
  | targetReset => exact takes_reported_memories memories_commandTargetReset ht
  | reshape b => exact takes_memories (memories_commandReshape b) ht
  | logPop => exact takes_memories (f := commandLogPop) (fun _ => rfl) ht
  | logClear => exact takes_memories (f := commandLogClear) (fun _ => rfl) ht
  | tableFetch a b => exact takes_memories (memories_commandTableFetch a b) ht
  | tableCommit a b => exact takes_reported_memories (memories_commandTableCommit a b) ht
  | resetHoldBegin c =>
    exact takes_memories (f := beginHold c) (fun a => memories_modPorts (cutOff_staging .stopped) a) ht

/-! REQUEST: the data goes into staging blocks (R28) -/

section

variable {s : State} (hs : MemoriesCanonical s)
include hs

theorem memoriesCanonical_consume (h : Port) (blocks : List StageBlock) (data : List Byte) :
    MemoriesCanonical (s.modPort h (consume blocks data)) := by
  obtain ⟨hbuffer, hstaging⟩ := hs
  refine ⟨hbuffer, fun g => ?_⟩
  rw [port_modPort]
  split
  · exact wf_storeBytes (hstaging g) ..
  · exact hstaging g

theorem memoriesCanonical_intake (h : Port) (kind : BitVec 8) (id : HostId) (cls : BitVec 2) (addr : BitVec 48)
    (len : Nat) (data : List Byte) (i : Slot) (blocks : List StageBlock) :
    MemoriesCanonical (intake h kind id cls addr len data i blocks s) := by
  have hconsumed := memoriesCanonical_consume hs h blocks data
  unfold intake
  dsimp only
  split
  · exact hconsumed.of_memories (memories_malformedRequest ..)
  · exact hconsumed.of_memories (memories_admitRequest ..)

theorem memoriesCanonical_request {t : State} {h : Port} {kind : BitVec 8} {id : HostId} {cls : BitVec 2}
    {addr : BitVec 48} {len : BitVec 16} {data : List Byte}
    (ht : exec (.request h kind id cls addr len data) s = .next t) : MemoriesCanonical t := by
  rcases execRequest_cases h kind id cls addr len data s with he | he | ⟨i, blocks, -, he⟩ | ⟨-, -, f, he⟩ <;>
    rw [he] at ht <;> cases ht
  · exact hs
  · exact hs.of_memories (((memories_reportAll _).trans (memories_appendLog ..)).trans (memories_raiseNotice ..))
  · exact (memoriesCanonical_intake hs ..).of_memories (memories_reportAll _)

/-! TCPL: the data of a live part goes into the request's reserved blocks (R80) -/

theorem memoriesCanonical_placeData (r : TagRec) (poisoned : Bool) (data : List Byte) :
    MemoriesCanonical (placeData r poisoned data s) := by
  obtain ⟨hbuffer, hstaging⟩ := hs
  unfold placeData
  split
  · exact ⟨hbuffer, hstaging⟩
  · rename_i q x _
    have hplaced : MemoriesCanonical
        { s with buffer := storeBytes (q.blocks.map (·.val)) (partOffset x r) data s.buffer } :=
      ⟨wf_storeBytes hbuffer .., hstaging⟩
    dsimp only
    split
    · exact hplaced.of_memories (memories_modPort rfl)
    · exact hplaced

theorem memoriesCanonical_livePart (t : Tag) (r : TagRec) (d : Tick) (q : Part) :
    MemoriesCanonical (livePart t r d q s) := by
  unfold livePart
  split
  · exact hs.of_memories (((memories_retire ..).trans (memories_appendLog ..)).trans (memories_lapse ..))
  · exact hs.of_memories (memories_takeRetry ..)
  · exact hs.of_memories (memories_retire ..)
  · rename_i poisoned _
    have haccepted : MemoriesCanonical (acceptData t r d q.data.length (placeData r poisoned q.data s)) :=
      (memoriesCanonical_placeData hs r poisoned q.data).of_memories (memories_acceptData ..)
    dsimp only
    split
    · exact haccepted.of_memories (memories_retire ..)
    · exact haccepted

theorem memoriesCanonical_takePart (t : Tag) (q : Part) : MemoriesCanonical (takePart t q s) := by
  unfold takePart
  split
  · exact hs.of_memories (memories_appendLog ..)
  · rename_i r _
    have hrunning (d : Tick) : MemoriesCanonical (if r.orphaned then orphanPart t r d q s else livePart t r d q s) := by
      split
      · exact hs.of_memories (memories_orphanPart ..)
      · exact memoriesCanonical_livePart hs ..
    split
    · exact hs.of_memories (memories_appendLog ..)
    · exact hs.of_memories (memories_appendLog ..)
    · exact hrunning _
    · exact hrunning _

theorem memoriesCanonical_tcpl (tag : Tag) (q : Part) :
    MemoriesCanonical (if s.targetUp then reportAll (drainTest (takePart tag q s)) else s) := by
  split
  · exact (memoriesCanonical_takePart hs tag q).of_memories ((memories_reportAll _).trans (memories_drainTest _))
  · exact hs

end

/-! Part resets: nothing is listed (log 15) -/

theorem memoriesCanonical_resetBlocks (c : ResetCause) (l : FaultLog) {f : PortState → PortState}
    (hf : ∀ p, (f p).staging = []) (g : TargetLane → TargetLane) (s : State) :
    MemoriesCanonical (resetBlocks c l f g s) := by
  refine ⟨Memory.wf_nil, fun h => ?_⟩
  rw [resetBlocks_port, hf]
  exact Memory.wf_nil

theorem memoriesCanonical_hardReset (c : ResetCause) (s : State) : MemoriesCanonical (hardReset c s) :=
  memoriesCanonical_resetBlocks c _ (fun _ => rfl) _ s

theorem memoriesCanonical_commandSoftReset (s : State) : MemoriesCanonical (commandSoftReset s) :=
  memoriesCanonical_resetBlocks .soft { s.log with view := none } (fun _ => rfl) softTarget s

/-! Register writes: only a COMMAND word of SOFT_RESET writes bytes (R179, R180) -/

theorem memoriesCanonical_takeCommandWord {s : State} (hs : MemoriesCanonical s) (w : Word) :
    MemoriesCanonical (takeCommandWord w s) := by
  unfold takeCommandWord
  split
  · exact hs
  · exact hs.of_memories (memories_commandPortReset ..)
  · exact hs.of_memories ((memories_reportAll _).trans (memories_commandTargetReset s))
  · exact memoriesCanonical_commandSoftReset s
  · exact hs.of_memories (memories_commandReshape ..)
  · exact hs.of_memories rfl
  · exact hs.of_memories rfl
  · exact hs.of_memories (memories_commandTableFetch ..)
  · exact hs.of_memories ((memories_reportAll _).trans (memories_commandTableCommit ..))

theorem memoriesCanonical_writeRegister {s : State} (hs : MemoriesCanonical s) (a : BitVec 16) (w : Word) :
    MemoriesCanonical (writeRegister a w s) := by
  unfold writeRegister
  split
  · exact hs
  · split
    · exact hs
    · split
      · exact memoriesCanonical_takeCommandWord hs w
      · unfold writeStaging
        split <;> exact hs

/-! The step -/

theorem exec_memoriesCanonical {c : Instr} {s t : State} (hs : MemoriesCanonical s) (ht : exec c s = .next t) :
    MemoriesCanonical t := by
  cases c with
  | request h kind id cls addr len data => exact memoriesCanonical_request hs ht
  | tcpl tag status remaining data =>
    exact takes_keeps (P := MemoriesCanonical)
      (fun _ ha => memoriesCanonical_tcpl ha tag ⟨status, remaining.toNat, data⟩) hs ht
  | registerWrite a w =>
    exact takes_keeps (P := MemoriesCanonical) (fun _ ha => memoriesCanonical_writeRegister ha a w) hs ht
  | softReset =>
    exact takes_keeps (P := MemoriesCanonical) (fun a _ => memoriesCanonical_commandSoftReset a) hs ht
  | powerOnReset =>
    cases ht
    split
    · exact hs
    · exact memoriesCanonical_hardReset ..
  | pinReset =>
    cases ht
    split
    · exact hs
    · exact memoriesCanonical_hardReset ..
  | _ => exact hs.of_memories (exec_memories rfl ht)

end Sys2Proof.Machine

namespace Sys2Proof.Proofs

open Sys2Proof.Machine

/-- Settles O13: a REQUEST and a TCPL store bytes by `storeBytes`, which keeps the form; a part reset leaves nothing
listed, and every other command leaves the bytes as they stand. -/
theorem stepKeepsMemoriesCanonical : Obligations.StepKeepsMemoriesCanonical := by
  intro s t hs ht
  unfold step at ht
  split at ht
  · cases ht
    exact hs
  · rename_i rest _
    exact exec_memoriesCanonical (s := { s with pending := rest }) hs ht

/-- Settles O1, by the two cases of `step`: a queue with a front command, and an empty one. -/
theorem stepTakesTheFrontCommand : Obligations.StepTakesTheFrontCommand := fun _ _ _ => ⟨rfl, rfl⟩

end Sys2Proof.Proofs
end
